-- ==== Sys2Proof/Word.lean ====
section
/-! DEFINITION. The two words the block works on (spec/00_scope.md R12): a byte and a 32-bit word. -/

namespace Sys2Proof

/-- An unsigned integer 0..255 (R12). -/
abbrev Byte := BitVec 8

/-- An unsigned 32-bit integer (R12). -/
abbrev Word := BitVec 32

end Sys2Proof
end

