-- ==== Sys2Proof/Syntax.lean ====
section
/-! DEFINITION. The instructions: one constructor per row of spec/opcode_table.json. A frame instruction holds the
payload and, where its row's mask leaves bits of the command byte open, those bits (log 16). -/

namespace Sys2Proof

/-- XPT's answer to one `TxWrite` (R258): how the write ended, after `k` bytes were accepted. -/
inductive WriteAnswer where
  /-- `ACCEPT(k)` -/
  | accept (k : Nat)
  /-- `TIMEOUT(k)` -/
  | timeout (k : Nat)
  /-- `FAULT(k)` -/
  | fault (k : Nat)
deriving DecidableEq, Repr, Inhabited

/-- DEL's answer to `SYSTIME` (R203). -/
inductive SysTimeAnswer where
  /-- the host time, two 32-bit words that the block does not check -/
  | time (sec nsec : Word)
  /-- `DelegateError` -/
  | error
deriving DecidableEq, Repr, Inhabited

/-- The rows of the opcode table. -/
inductive Instr where
  -- Received frames (R81, R90), in the table's order.
  /-- command 0x00 (R230) -/
  | unknown00 (payload : List Byte)
  /-- command 0x01 (R201) -/
  | timeSync (payload : List Byte)
  /-- command 0x02 (R211) -/
  | logDebug (payload : List Byte)
  /-- command 0x03 (R212) -/
  | logInfo (payload : List Byte)
  /-- command 0x04 (R213) -/
  | logWarn (payload : List Byte)
  /-- command 0x05 (R214) -/
  | logError (payload : List Byte)
  /-- commands 0x06 and 0x07 (R230) -/
  | unknown0607 (low : BitVec 1) (payload : List Byte)
  /-- command 0x08 (R220) -/
  | paramReq (payload : List Byte)
  /-- command 0x09 (R230) -/
  | unknown09 (payload : List Byte)
  /-- commands 0x0A and 0x0B (R230) -/
  | unknown0A0B (low : BitVec 1) (payload : List Byte)
  /-- commands 0x0C to 0x0F (R230) -/
  | unknown0C0F (low : BitVec 2) (payload : List Byte)
  /-- commands 0x10 to 0x1F (R225) -/
  | publish101F (low : BitVec 4) (payload : List Byte)
  /-- commands 0x20 to 0x3F (R225) -/
  | publish203F (low : BitVec 5) (payload : List Byte)
  /-- commands 0x40 to 0x7F (R225) -/
  | publish407F (low : BitVec 6) (payload : List Byte)
  /-- commands 0x80 to 0xFF (R225) -/
  | publish80FF (low : BitVec 7) (payload : List Byte)
  -- HOST operations (R96).
  /-- `start` (R182) -/
  | start
  /-- `stop` (R181) -/
  | stop
  /-- `send_command(c, p)` (R183) -/
  | sendCommand (c : Byte) (p : List Byte)
  /-- `step` (R184) -/
  | step
  /-- the status read (R45) -/
  | statusRead
  -- Environment inputs (R97).
  /-- a byte arrives (R257) -/
  | xptByte (b : Byte)
  /-- an RX wait times out (R138, R257) -/
  | xptTimeout
  /-- a transport I/O error on RX (R139, R257) -/
  | xptIoerr
  /-- XPT answers TX's `TxWrite` (R258) -/
  | xptWriteAnswer (a : WriteAnswer)
  /-- DEL answers `SYSTIME` (R203) -/
  | delSystimeAnswer (a : SysTimeAnswer)
  /-- DEL completes parameter request `k` (R222) -/
  | delParamResult (k : Nat) (values : List Word)
deriving DecidableEq, Repr, Inhabited

/-- The HOST operations and environment inputs of R96 and R97: what arrives at a port, as against the frames, which RX
itself decodes. -/
def Instr.isPort : Instr → Bool
  | .start | .stop | .sendCommand _ _ | .step | .statusRead => true
  | .xptByte _ | .xptTimeout | .xptIoerr | .xptWriteAnswer _ => true
  | .delSystimeAnswer _ | .delParamResult _ _ => true
  | .unknown00 _ | .timeSync _ | .logDebug _ | .logInfo _ | .logWarn _ | .logError _ => false
  | .unknown0607 _ _ | .paramReq _ | .unknown09 _ | .unknown0A0B _ _ | .unknown0C0F _ _ => false
  | .publish101F _ _ | .publish203F _ _ | .publish407F _ _ | .publish80FF _ _ => false

/-- The command byte and payload a frame instruction stands for (R90); none for a port operation. -/
def Instr.frame : Instr → Option (Byte × List Byte)
  | .unknown00 p => some (0x00#8, p)
  | .timeSync p => some (0x01#8, p)
  | .logDebug p => some (0x02#8, p)
  | .logInfo p => some (0x03#8, p)
  | .logWarn p => some (0x04#8, p)
  | .logError p => some (0x05#8, p)
  | .unknown0607 l p => some (0b0000011#7 ++ l, p)
  | .paramReq p => some (0x08#8, p)
  | .unknown09 p => some (0x09#8, p)
  | .unknown0A0B l p => some (0b0000101#7 ++ l, p)
  | .unknown0C0F l p => some (0b000011#6 ++ l, p)
  | .publish101F l p => some (0b0001#4 ++ l, p)
  | .publish203F l p => some (0b001#3 ++ l, p)
  | .publish407F l p => some (0b01#2 ++ l, p)
  | .publish80FF l p => some (0b1#1 ++ l, p)
  | .start | .stop | .sendCommand _ _ | .step | .statusRead => none
  | .xptByte _ | .xptTimeout | .xptIoerr | .xptWriteAnswer _ => none
  | .delSystimeAnswer _ | .delParamResult _ _ => none

end Sys2Proof
end

