-- ==== Sys2Proof/Config.lean ====
section
/-! DEFINITION. The implementation parameters of spec/00_scope.md R5 to R10, what a schedule chooses among (R15), and
the free values: constants with no body, of which nothing can be proved but that they have a value (logs 1, 6, 7). -/

namespace Sys2Proof

/-- How RX and TX are driven (R5). -/
inductive Mode where
  | threaded
  | singleStep
deriving DecidableEq, Repr, Inhabited

/-- `TX_LEN_BYTES`: how many length bytes the encoder emits (R6). -/
inductive TxLenBytes where
  | one
  | two
deriving DecidableEq, Repr, Inhabited

/-- When `read_count` grows (R7). -/
inductive ReadCountPoint where
  | onPayload
  | onAccept
deriving DecidableEq, Repr, Inhabited

/-- What happens to the unwritten remainder of a timed-out write (R9). -/
inductive WrTimeoutPolicy where
  | dropRemainder
  | retryRemainder
deriving DecidableEq, Repr, Inhabited

/-- The durations of R10. No rule reads them. -/
structure Durations where
  readTimeout : Nat
  writeTimeout : Nat
  pause : Nat
  settle : Nat
deriving DecidableEq, Repr, Inhabited

/-- The parameters fixed when the block is built (R5 to R10). -/
structure Params where
  mode : Mode
  txLenBytes : TxLenBytes
  readCountPoint : ReadCountPoint
  timeSigned : Bool
  wrTimeoutPolicy : WrTimeoutPolicy
  durations : Durations
deriving DecidableEq, Repr, Inhabited

/-- The parameters `State.reset` is built with: the spec's defaults for `TX_LEN_BYTES` and `WR_TIMEOUT_POLICY` (R6, R9).
DESIGN CHOICE for the others, which the spec leaves open (log 2). -/
def Params.default : Params where
  mode := .threaded
  txLenBytes := .one
  readCountPoint := .onAccept
  timeSigned := false
  wrTimeoutPolicy := .dropRemainder
  durations := ⟨0, 0, 0, 0⟩

/-- DEL's answer to a `LOG`, `GET_PARAM` or `PUBLISH` call (R256): unit or `DelegateError`. -/
inductive CallAnswer where
  | ok
  | error
deriving DecidableEq, Repr, Inhabited

/-- XPT's answer to the transport reset (R182). -/
inductive ResetAnswer where
  | ok
  | fail
deriving DecidableEq, Repr, Inhabited

/-- The draw of a single-step write timeout (R186). -/
inductive TimeoutDraw where
  | continue
  | stop
deriving DecidableEq, Repr, Inhabited

/-- Which agent moves next (R4, R15). An environment agent's move is the instruction it performs. -/
inductive Move where
  /-- RX's own next step (R120 to R137, R161) -/
  | rx
  /-- RX's optional exit at a read-step boundary (R163) -/
  | rxExit
  /-- TX's own next step (R171, R172, R175) -/
  | tx
  /-- TX's optional exit between partial writes (R177) -/
  | txExit
  /-- a step of HOST, DEL or XPT -/
  | input (i : Instr)
deriving DecidableEq, Repr, Inhabited

/-- The move taken when the schedule in State names none: any agent may go next (R15). DESIGN CHOICE (log 1). -/
opaque Config.freeMove : Nat → Move

/-- DEL's answer to `SYSTIME` when State holds none: a draw under no law (R203). DESIGN CHOICE (log 7). -/
opaque Config.freeSysTime : Nat → SysTimeAnswer

/-- DEL's answer to any other call when State holds none (R256). DESIGN CHOICE (log 7). -/
opaque Config.freeCall : Nat → CallAnswer

/-- XPT's answer to the reset when State holds none (R182). DESIGN CHOICE (log 7). -/
opaque Config.freeReset : Nat → ResetAnswer

/-- The draw of R186 when State holds none. DESIGN CHOICE (log 7). -/
opaque Config.freeTimeout : Nat → TimeoutDraw

/-- What `tx_cur` holds after R174 leaves it with no value. DESIGN CHOICE (log 6). -/
opaque Config.noTxCur : Nat → List Byte

/-- What `tx_off` holds after R174 leaves it with no value. DESIGN CHOICE (log 6). -/
opaque Config.noTxOff : Nat → Nat

end Sys2Proof
end

