-- ==== Sys2Proof/Machine/State.lean ====
section
/-! DEFINITION. The machine's state: every register of spec/10_state.md, the environment state of R42 to R44, the
parameters fixed at construction, and the model's own schedule and draws. All of it is plain data. -/

namespace Sys2Proof.Machine

/-- `rx_buf` (R34) as a list of (index, byte) cells. Its canonical form is in Machine/Ops.lean (log 5). -/
abbrev Memory := List Host.Cell

/-- The codes of Unspecified behaviour (R247). -/
inductive UCode where
  /-- `U_SYNC_LEN` -/
  | syncLen
  /-- `U_TEXT` -/
  | text
  /-- `U_START` -/
  | start
  /-- `U_RESET` -/
  | reset
  /-- `U_MODE` -/
  | mode
deriving DecidableEq, Repr, Inhabited

/-- `rx_state` (R30). -/
inductive RxState where
  /-- `R_SYNC1` -/
  | sync1
  /-- `R_SYNC2` -/
  | sync2
  /-- `R_CMD` -/
  | cmd
  /-- `R_LEN` -/
  | len
  /-- `R_PAYLOAD` -/
  | payload
  /-- `R_CSUM` -/
  | csum
  /-- `R_DISPATCH` -/
  | dispatch
  /-- `R_HALT` -/
  | halt
deriving DecidableEq, Repr, Inhabited

/-- `ss_phase` (R35). -/
inductive SsPhase where
  /-- `SS_NONE` -/
  | none
  /-- `SS_DECODE` -/
  | decode
  /-- `SS_WRITE` -/
  | write
deriving DecidableEq, Repr, Inhabited

/-- `tx_state` (R37). -/
inductive TxState where
  /-- `T_IDLE` -/
  | idle
  /-- `T_BUSY` -/
  | busy
  /-- `T_PAUSE` -/
  | pause
  /-- `T_HALT` -/
  | halt
deriving DecidableEq, Repr, Inhabited

/-- The level of a forwarded log (R44, R210). -/
inductive LogLevel where
  | debug
  | info
  | warn
  | error
deriving DecidableEq, Repr, Inhabited

/-- The calls the block makes to the Delegate (R44, R256). `STOPPED` is an event of its own: its answer is ignored. -/
inductive DelCall where
  /-- `LOG(level, text)` -/
  | log (level : LogLevel) (text : List Byte)
  /-- `PUBLISH(cmd, data)` -/
  | publish (cmd : Byte) (data : List Byte)
  /-- `GET_PARAM(k, name)` -/
  | getParam (k : Nat) (name : List Byte)
  /-- `SYSTIME` -/
  | sysTime
deriving DecidableEq, Repr, Inhabited

/-- A diagnostic with the information it records (R241). -/
inductive Diag where
  /-- `DROP_SYNC1`: the byte -/
  | dropSync1 (b : Byte)
  /-- `DROP_SYNC2`: the byte -/
  | dropSync2 (b : Byte)
  /-- `DROP_CHECKSUM`: command, length, the checksum received and the one expected -/
  | dropChecksum (cmd : Byte) (len : Nat) (received expected : Byte)
  /-- `UNKNOWN_CMD`: command and payload length -/
  | unknownCmd (cmd : Byte) (len : Nat)
  /-- `TIME_OFFSET`: the exact offset in milliseconds (R206) -/
  | timeOffset (diffMs : Rat)
  /-- `E_RX_TIMEOUT`: the state RX waited in and its position (R138) -/
  | rxTimeout (st : RxState) (i : Nat)
  /-- `E_RX_OTHER`: the Delegate call that failed -/
  | rxOther (e : DelCall)
  /-- `E_TX_TIMEOUT`: bytes written and the frame's length -/
  | txTimeout (off len : Nat)
  /-- `E_TX_FAULT`: bytes written and the frame's length -/
  | txFault (off len : Nat)
deriving DecidableEq, Repr

/-- One entry of the output trace (R44). -/
inductive Event where
  /-- a Delegate call -/
  | del (e : DelCall)
  /-- `STOPPED` -/
  | stopped
  /-- `XPT_RESET` -/
  | xptReset
  /-- `DIAG(code, info)` -/
  | diag (d : Diag)
deriving DecidableEq, Repr

/-- What a status read answers (R45). -/
structure Status where
  alive : Bool
  timeSynced : Bool
  readCount : Nat
  started : Bool
  ufault : Option UCode
deriving DecidableEq, Repr, Inhabited

/-- The environment's answers that the block has not used yet, in the order it will use them, and how many free answers
were used after they ran out (R15, log 7). The MODEL's own data. -/
structure Draws where
  sysTime : List SysTimeAnswer
  calls : List CallAnswer
  resets : List ResetAnswer
  timeouts : List TimeoutDraw
  used : Nat
deriving DecidableEq, Repr, Inhabited

/-- The state of the block and of its environment (R20, R42 to R44). -/
@[ext]
structure State where
  -- The parameters, fixed at construction (R5 to R10).
  cfg : Params
  -- Lifecycle registers (R22 to R28).
  started : Bool
  alive : Bool
  stopNotified : Bool
  timeSynced : Bool
  readCount : Nat
  paramIssued : Nat
  ufault : Option UCode
  -- RX registers (R30 to R35).
  rxState : RxState
  rxCmd : Byte
  rxLen : BitVec 16
  rxIdx : BitVec 16
  rxBuf : Memory
  ssPhase : SsPhase
  -- TX registers (R37 to R40).
  txState : TxState
  txCur : List Byte
  txOff : Nat
  queue : List (List Byte)
  -- Environment state (R42 to R44).
  rxFifo : List Byte
  txWire : List Byte
  events : List Event
  -- The MODEL's own fields: HOST's latest status (log 12), the draws (log 7), the moves chosen and not yet taken, and
  -- how many moves were taken (log 1).
  hostStatus : Option Status
  draws : Draws
  schedule : List Move
  moved : Nat
deriving DecidableEq, Repr

/-- Why the machine stops. -/
inductive Fault where
  /-- Raised by every step but a status read and a byte arrival once `ufault` holds a code (R14): the sources give no
  behaviour for what happened, no agent of the block has a step any more, and a model treats the state "as a fault that
  refutes every observation". Safe: nothing can be proved of a run after it. -/
  | unspecified (u : UCode)
deriving DecidableEq, Repr

/-- Why an instruction has no meaning. -/
inductive Refusal where
  /-- Raised by `exec` for an instruction that has no meaning yet, named as the opcode table names it. No arm of this
  model answers it. Safe: nothing can be proved of a run after it. -/
  | notModelled (mnemonic : String)
deriving DecidableEq, Repr

/-- The state after construction (R270), for any parameters and any initial `rx_fifo` (R42). DESIGN CHOICE: the
registers that R270 gives no value hold zero or nothing (logs 4, 5), and the model's own fields are empty (logs 1, 7, 12). -/
def State.construct (cfg : Params) (rxFifo : List Byte) : State where
  cfg := cfg
  started := false
  alive := false
  stopNotified := false
  timeSynced := false
  readCount := 0
  paramIssued := 0
  ufault := none
  rxState := .sync1
  rxCmd := 0#8
  rxLen := 0#16
  rxIdx := 0#16
  rxBuf := []
  ssPhase := .none
  txState := .idle
  txCur := []
  txOff := 0
  queue := []
  rxFifo := rxFifo
  txWire := []
  events := []
  hostStatus := none
  draws := ⟨[], [], [], [], 0⟩
  schedule := []
  moved := 0

/-- The machine right after reset: construction (R270) with the parameters of `Params.default` (log 2) and an empty
`rx_fifo` (log 3), both DESIGN CHOICE. -/
def State.reset : State := State.construct Params.default []

end Sys2Proof.Machine
end

