-- ==== Sys2Proof/Machine/Flags.lean ====
section
/-! DEFINITION. The flags of R48 and what is computed from them: when RX and TX may step (R160, R170), when HOST may call
(R181, R183, R184), the status outputs (R45), and the flag writes of `Stop()` and `start`. No instruction has a condition
code. -/

namespace Sys2Proof.Machine

/-- `rx_may_step` (R160). -/
def rxMayStep (s : State) : Bool :=
  s.ufault.isNone && s.rxState != .halt &&
    match s.cfg.mode with
    | .threaded => s.started
    | .singleStep => s.ssPhase == .decode

/-- `tx_may_step` (R170). -/
def txMayStep (s : State) : Bool :=
  s.ufault.isNone && s.txState != .halt &&
    match s.cfg.mode with
    | .threaded => s.started
    | .singleStep => s.ssPhase == .write

/-- HOST has a step other than a status read: no `step` call is in progress (R181, R183, R184). -/
def hostMayCall (s : State) : Bool := s.ssPhase == .none

/-- RX stands at a read-step boundary: R163's set of states. -/
def atReadBoundary (s : State) : Bool :=
  match s.rxState with
  | .sync2 | .cmd | .csum | .dispatch => true
  | .len | .payload => s.rxIdx == 0#16
  | .sync1 | .halt => false

/-- RX waits: a read state other than `R_SYNC1`, with nothing pending (R138, log 19). -/
def rxWaiting (s : State) : Bool :=
  s.rxFifo.isEmpty &&
    match s.rxState with
    | .sync2 | .cmd | .len | .payload | .csum => true
    | .sync1 | .dispatch | .halt => false

/-- The position an `E_RX_TIMEOUT` records (R138). -/
def waitPosition (s : State) : Nat :=
  match s.rxState with
  | .len | .payload => s.rxIdx.toNat
  | .sync1 | .sync2 | .cmd | .csum | .dispatch | .halt => 0

/-- XPT can fail an RX call (R139, log 18): every state but `R_DISPATCH` and `R_HALT`. -/
def rxCallsTransport (s : State) : Bool :=
  match s.rxState with
  | .dispatch | .halt => false
  | .sync1 | .sync2 | .cmd | .len | .payload | .csum => true

/-- The status outputs (R45). -/
def status (s : State) : Status where
  alive := s.alive
  timeSynced := s.timeSynced
  readCount := s.readCount
  started := s.started
  ufault := s.ufault

/-- The flag writes of `start` (R182). -/
def setStarted (s : State) : State := { s with started := true, alive := true }

/-- `time_synced <- true` (R205). -/
def setTimeSynced (s : State) : State := { s with timeSynced := true }

end Sys2Proof.Machine
end

