-- ==== Sys2Proof/Decode.lean ====
section
/-! DEFINITION. From bytes to instructions and back: the checksum (R110), the RX frame (R81), the functional decoder of
one decode attempt (R142), the command map (R90, R91), and the encoder of frame instructions. -/

namespace Sys2Proof

/-- The exact sum of a byte sequence. -/
def byteSum : List Byte → Nat
  | [] => 0
  | b :: p => b.toNat + byteSum p

/-- `sum8` (R12): the sum modulo 256. -/
def sum8 (p : List Byte) : Byte := BitVec.ofNat 8 (byteSum p)

/-- `checksum` (R110). -/
def checksum (p : List Byte) : Byte := 0xFF#8 - sum8 p

/-- `le16` (R12, R84). -/
def le16 (b0 b1 : Byte) : BitVec 16 := BitVec.ofNat 16 (b0.toNat + 256 * b1.toNat)

/-- The marker byte of the preamble (R11). -/
abbrev syncByte : Byte := 0xAA#8

/-- The low byte of a length (R81, R82). -/
def lenLo (n : Nat) : Byte := BitVec.ofNat 8 n

/-- The high byte of a length (R81). -/
def lenHi (n : Nat) : Byte := BitVec.ofNat 8 (n / 256)

/-- `RX(c; p)`: the RX frame of a command and a payload (R81, R95). -/
def rxFrame (c : Byte) (p : List Byte) : List Byte :=
  [syncByte, syncByte, c, lenLo p.length, lenHi p.length] ++ p ++ [checksum p]

/-- Why a decode attempt dropped its bytes (R240, R241). -/
inductive DropCode where
  | sync1
  | sync2
  | checksum
deriving DecidableEq, Repr

/-- How one decode attempt ends (R142). -/
inductive FrameOutcome where
  | empty
  | drop (code : DropCode)
  | frame (c : Byte) (p : List Byte)
  | short
deriving DecidableEq, Repr

/-- `decode1` (R142): one decode attempt as a function of the bytes pending. -/
def decode1 : List Byte → FrameOutcome × List Byte
  | [] => (.empty, [])
  | b0 :: s1 =>
    if b0 ≠ syncByte then (.drop .sync1, s1)
    else
      match s1 with
      | [] => (.short, [])
      | b1 :: s2 =>
        if b1 ≠ syncByte then (.drop .sync2, s2)
        else
          match s2 with
          | c :: lo :: hi :: s3 =>
            let len := (le16 lo hi).toNat
            if s3.length < len + 1 then (.short, [])
            else if s3.getD len 0#8 = checksum (s3.take len) then (.frame c (s3.take len), s3.drop (len + 1))
            else (.drop .checksum, s3.drop (len + 1))
          | _ => (.short, [])

/-- The classes of the command map (R90). -/
inductive Class where
  | timeSync
  | logDebug
  | logInfo
  | logWarn
  | logError
  | paramReq
  | publish
  | unknown
deriving DecidableEq, Repr

/-- `classify` (R91). -/
def classify (c : Byte) : Class :=
  if c = 0x01#8 then .timeSync
  else if c = 0x02#8 then .logDebug
  else if c = 0x03#8 then .logInfo
  else if c = 0x04#8 then .logWarn
  else if c = 0x05#8 then .logError
  else if c = 0x08#8 then .paramReq
  else if 0x10#8 ≤ c then .publish
  else .unknown

/-- The instruction of a validated frame: the row of the opcode table whose match and mask fit its command (R90). The
masks are tried in the table's order; every command fits exactly one row. -/
def instrOf (c : Byte) (p : List Byte) : Instr :=
  if c &&& 0xFF#8 = 0x00#8 then .unknown00 p
  else if c &&& 0xFF#8 = 0x01#8 then .timeSync p
  else if c &&& 0xFF#8 = 0x02#8 then .logDebug p
  else if c &&& 0xFF#8 = 0x03#8 then .logInfo p
  else if c &&& 0xFF#8 = 0x04#8 then .logWarn p
  else if c &&& 0xFF#8 = 0x05#8 then .logError p
  else if c &&& 0xFE#8 = 0x06#8 then .unknown0607 (c.extractLsb' 0 1) p
  else if c &&& 0xFF#8 = 0x08#8 then .paramReq p
  else if c &&& 0xFF#8 = 0x09#8 then .unknown09 p
  else if c &&& 0xFE#8 = 0x0A#8 then .unknown0A0B (c.extractLsb' 0 1) p
  else if c &&& 0xFC#8 = 0x0C#8 then .unknown0C0F (c.extractLsb' 0 2) p
  else if c &&& 0xF0#8 = 0x10#8 then .publish101F (c.extractLsb' 0 4) p
  else if c &&& 0xE0#8 = 0x20#8 then .publish203F (c.extractLsb' 0 5) p
  else if c &&& 0xC0#8 = 0x40#8 then .publish407F (c.extractLsb' 0 6) p
  else .publish80FF (c.extractLsb' 0 7) p

/-- The class of a frame instruction (R90); none for a port operation. -/
def Instr.commandClass : Instr → Option Class
  | .unknown00 _ | .unknown0607 _ _ | .unknown09 _ | .unknown0A0B _ _ | .unknown0C0F _ _ => some .unknown
  | .timeSync _ => some .timeSync
  | .logDebug _ => some .logDebug
  | .logInfo _ => some .logInfo
  | .logWarn _ => some .logWarn
  | .logError _ => some .logError
  | .paramReq _ => some .paramReq
  | .publish101F _ _ | .publish203F _ _ | .publish407F _ _ | .publish80FF _ _ => some .publish
  | .start | .stop | .sendCommand _ _ | .step | .statusRead => none
  | .xptByte _ | .xptTimeout | .xptIoerr | .xptWriteAnswer _ => none
  | .delSystimeAnswer _ | .delParamResult _ _ => none

/-- Why the decoder gives no instruction, by name (R94, R142). -/
inductive DecodeError where
  /-- no byte is there -/
  | empty
  /-- the bytes end inside a frame -/
  | short
  /-- the first byte is not the marker (R122) -/
  | dropSync1
  /-- the second byte is not the marker (R124) -/
  | dropSync2
  /-- the checksum does not match (R135) -/
  | dropChecksum
deriving DecidableEq, Repr

/-- The decoder: the instruction of the frame at the head of a byte sequence and the bytes after it, or why there is
none. Total on any bytes (R142, R90). -/
def decode (s : List Byte) : Except DecodeError (Instr × List Byte) :=
  match decode1 s with
  | (.frame c p, rest) => .ok (instrOf c p, rest)
  | (.empty, _) => .error .empty
  | (.short, _) => .error .short
  | (.drop .sync1, _) => .error .dropSync1
  | (.drop .sync2, _) => .error .dropSync2
  | (.drop .checksum, _) => .error .dropChecksum

/-- The encoder: the bytes of a frame instruction (R81). A port operation has no binary encoding (R96, R97). -/
def encode (i : Instr) : Option (List Byte) :=
  match i.frame with
  | some (c, p) => some (rxFrame c p)
  | none => none

/-- The bytes of a table word, the least significant first. -/
def tableBytes (nbits w : Nat) : List Byte :=
  (List.range (nbits / 8)).map fun k => BitVec.ofNat 8 (w / 256 ^ k)

/-- The RX frame a table word stands for: the word's first byte is the command, which the row's match and mask apply to;
two length bytes and the payload follow it, and bytes the word does not give are 0. The preamble and the checksum, which
no bit of the word holds, are those of a valid frame. DESIGN CHOICE (log 13). -/
def tableFrame (nbits w : Nat) : List Byte :=
  let bs := tableBytes nbits w
  let len := (le16 (bs.getD 1 0#8) (bs.getD 2 0#8)).toNat
  rxFrame (bs.getD 0 0#8) ((List.range len).map fun k => bs.getD (3 + k) 0#8)

/-- The instruction the decoder reads from a table word (log 13). -/
def decodeTableWord (nbits w : Nat) : Option Instr :=
  match decode (tableFrame nbits w) with
  | .ok (i, _) => some i
  | .error _ => none

end Sys2Proof
end

