-- ==== Sys2Proof/Machine/Operands.lean ====
section
/-! DEFINITION. Operand assembly: 32-bit words in payloads (R12, R89), the clock offset (R206), UTF-8 well-formedness
(R210), the two halves of `rx_len` (R128, R130), and the TX frame encoder (R115). -/

namespace Sys2Proof.Machine

/-- `le32` (R12). -/
def le32 (b0 b1 b2 b3 : Byte) : Word :=
  BitVec.ofNat 32 (b0.toNat + 2 ^ 8 * b1.toNat + 2 ^ 16 * b2.toNat + 2 ^ 24 * b3.toNat)

/-- `le32bytes` (R12): the four bytes of a word, bits 7..0 first. -/
def le32bytes (w : Word) : List Byte :=
  [w.extractLsb' 0 8, w.extractLsb' 8 8, w.extractLsb' 16 8, w.extractLsb' 24 8]

/-- The word at a payload offset (R89). -/
def wordAt (p : List Byte) (o : Nat) : Word :=
  le32 (p.getD o 0#8) (p.getD (o + 1) 0#8) (p.getD (o + 2) 0#8) (p.getD (o + 3) 0#8)

/-- A list of words serialised one after another (R222). -/
def wordsBytes : List Word → List Byte
  | [] => []
  | w :: ws => le32bytes w ++ wordsBytes ws

/-- `val` (R206): a time word read as two's complement when `TIME_SIGNED` is true, else as unsigned (R8, R89). -/
def timeVal (signed : Bool) (w : Word) : Int :=
  if signed then w.toInt else (w.toNat : Int)

/-- `diff_ms` (R206), an exact rational: `(hs - ps) * 1000 + (hn - pn) / 10^6` over its denominator `10^6`, so that the
kernel can evaluate it. -/
def diffMs (signed : Bool) (hs hn ps pn : Word) : Rat :=
  mkRat ((timeVal signed hs - timeVal signed ps) * 10 ^ 9 + (timeVal signed hn - timeVal signed pn)) (10 ^ 6)

/-- The host's answer to a time-sync request (R204): the payload of the reply. -/
def timeReply (hs hn : Word) : List Byte := le32bytes hs ++ le32bytes hn

/-- A byte lies between two bounds, both included. -/
def byteIn (lo hi b : Byte) : Bool := lo ≤ b && b ≤ hi

/-- A UTF-8 continuation byte, `80..BF`. -/
def utf8Tail (b : Byte) : Bool := byteIn 0x80#8 0xBF#8 b

/-- The second byte RFC 3629 allows after a lead byte of a three-byte form. PRESUMED (log 17). -/
def utf8Second3 (b0 b1 : Byte) : Bool :=
  if b0 = 0xE0#8 then byteIn 0xA0#8 0xBF#8 b1
  else if b0 = 0xED#8 then byteIn 0x80#8 0x9F#8 b1
  else utf8Tail b1

/-- The second byte RFC 3629 allows after a lead byte of a four-byte form. PRESUMED (log 17). -/
def utf8Second4 (b0 b1 : Byte) : Bool :=
  if b0 = 0xF0#8 then byteIn 0x90#8 0xBF#8 b1
  else if b0 = 0xF4#8 then byteIn 0x80#8 0x8F#8 b1
  else utf8Tail b1

/-- Well-formed UTF-8 as RFC 3629 defines it (R210): shortest forms, no surrogates, up to U+10FFFF. PRESUMED, as the
spec itself marks it (log 17). -/
def utf8 : List Byte → Bool
  | [] => true
  | b0 :: s1 =>
    if byteIn 0x00#8 0x7F#8 b0 then utf8 s1
    else
      match s1 with
      | [] => false
      | b1 :: s2 =>
        if byteIn 0xC2#8 0xDF#8 b0 then utf8Tail b1 && utf8 s2
        else
          match s2 with
          | [] => false
          | b2 :: s3 =>
            if byteIn 0xE0#8 0xEF#8 b0 then utf8Second3 b0 b1 && utf8Tail b2 && utf8 s3
            else
              match s3 with
              | [] => false
              | b3 :: s4 =>
                if byteIn 0xF0#8 0xF4#8 b0 then
                  utf8Second4 b0 b1 && utf8Tail b2 && utf8Tail b3 && utf8 s4
                else false

/-- `rx_len[7:0] <- b` (R128). -/
def setLenLo (n : BitVec 16) (b : Byte) : BitVec 16 := (n.extractLsb' 8 8 : BitVec 8) ++ b

/-- `rx_len[15:8] <- b` (R130). -/
def setLenHi (n : BitVec 16) (b : Byte) : BitVec 16 := b ++ (n.extractLsb' 0 8 : BitVec 8)

/-- `encode` (R115, R82): the TX frame of a command and a payload. Only the low byte of the length is sent. -/
def encodeTx (t : TxLenBytes) (c : Byte) (p : List Byte) : List Byte :=
  match t with
  | .one => [syncByte, syncByte, c, lenLo p.length] ++ p ++ [checksum p]
  | .two => [syncByte, syncByte, c, lenLo p.length, 0x00#8] ++ p ++ [checksum p]

/-- How many bytes a write answer accepts (R258). -/
def acceptedBytes : WriteAnswer → Nat
  | .accept k => k
  | .timeout k => k
  | .fault k => k

/-- The answers XPT can give to `TxWrite` of `r` bytes (R258). -/
def answerFits (a : WriteAnswer) (r : Nat) : Bool :=
  match a with
  | .accept k => k ≤ r
  | .timeout k => k < r
  | .fault k => k < r

end Sys2Proof.Machine
end

