-- ==== Sys2Proof/Machine/Ops.lean ====
section
/-! DEFINITION. The named operations every rule is written with (R13): the payload buffer, the queue, the trace, the
draws, `Stop()`, the end of a decode attempt and of a write cycle, raising Unspecified, and taking an RX exception. -/

namespace Sys2Proof.Machine

/-! ### The payload buffer (R34, R61) -/

/-- The bytes `rx_buf` has (R34). -/
abbrev rxBufBytes : Nat := 65535

/-- What an unlisted byte of `rx_buf` reads as. DESIGN CHOICE: the spec gives `rx_buf` no value at reset (log 5). -/
abbrev unwrittenByte : Byte := 0#8

/-- One byte of the buffer. -/
def memRead : Memory → Nat → Byte
  | [], _ => unwrittenByte
  | (x, c) :: m, a => if x = a then c else memRead m a

/-- Write one byte, keeping the cells in rising order and listing no byte that reads as unlisted. -/
def memWrite : Memory → Nat → Byte → Memory
  | [], a, b => if b = unwrittenByte then [] else [(a, b)]
  | (x, c) :: m, a, b =>
    if a < x then (if b = unwrittenByte then (x, c) :: m else (a, b) :: (x, c) :: m)
    else if a = x then (if b = unwrittenByte then m else (a, b) :: m)
    else (x, c) :: memWrite m a b

/-- The canonical form from an index on: strictly rising, inside the buffer, nothing listed that reads as unlisted. -/
def memWfFrom : Nat → Memory → Bool
  | _, [] => true
  | lo, (x, c) :: m => lo ≤ x && x < rxBufBytes && c != unwrittenByte && memWfFrom (x + 1) m

/-- The canonical form of the buffer (log 5). -/
def Memory.wf (m : Memory) : Bool := memWfFrom 0 m

/-- `rx_buf[0..n)` as one value (R61). -/
def memPrefix (m : Memory) (n : Nat) : List Byte := (List.range n).map (memRead m)

/-- Write a byte sequence from an index on. -/
def memLoad : Memory → Nat → List Byte → Memory
  | m, _, [] => m
  | m, a, b :: p => memLoad (memWrite m a b) (a + 1) p

/-- The payload of the frame in the RX registers: `rx_buf[0..rx_len)` (R61). -/
def rxPayload (s : State) : List Byte := memPrefix s.rxBuf s.rxLen.toNat

/-! ### The queue and the trace -/

/-- `Emit(e)` (R13, R44). -/
def emit (e : Event) (s : State) : State := { s with events := s.events ++ [e] }

/-- `Diag(code, info)` (R248). -/
def diag (d : Diag) (s : State) : State := emit (.diag d) s

/-- `Enqueue(f)` (R62). -/
def enqueue (f : List Byte) (s : State) : State := { s with queue := s.queue ++ [f] }

/-- Encode and enqueue in one step (R117). -/
def sendFrame (c : Byte) (p : List Byte) (s : State) : State := enqueue (encodeTx s.cfg.txLenBytes c p) s

/-! ### Draws (R15, log 7) -/

/-- DEL's next answer to `SYSTIME`. -/
def nextSysTime (s : State) : SysTimeAnswer :=
  match s.draws.sysTime with
  | a :: _ => a
  | [] => Config.freeSysTime s.draws.used

/-- The state once that answer is used. -/
def useSysTime (s : State) : State :=
  match s.draws.sysTime with
  | _ :: r => { s with draws := { s.draws with sysTime := r } }
  | [] => { s with draws := { s.draws with used := s.draws.used + 1 } }

/-- DEL's next answer to any other call. -/
def nextCall (s : State) : CallAnswer :=
  match s.draws.calls with
  | a :: _ => a
  | [] => Config.freeCall s.draws.used

/-- The state once that answer is used. -/
def useCall (s : State) : State :=
  match s.draws.calls with
  | _ :: r => { s with draws := { s.draws with calls := r } }
  | [] => { s with draws := { s.draws with used := s.draws.used + 1 } }

/-- XPT's next answer to the reset. -/
def nextReset (s : State) : ResetAnswer :=
  match s.draws.resets with
  | a :: _ => a
  | [] => Config.freeReset s.draws.used

/-- The state once that answer is used. -/
def useReset (s : State) : State :=
  match s.draws.resets with
  | _ :: r => { s with draws := { s.draws with resets := r } }
  | [] => { s with draws := { s.draws with used := s.draws.used + 1 } }

/-- The next draw of a single-step write timeout. -/
def nextTimeout (s : State) : TimeoutDraw :=
  match s.draws.timeouts with
  | a :: _ => a
  | [] => Config.freeTimeout s.draws.used

/-- The state once that draw is used. -/
def useTimeout (s : State) : State :=
  match s.draws.timeouts with
  | _ :: r => { s with draws := { s.draws with timeouts := r } }
  | [] => { s with draws := { s.draws with used := s.draws.used + 1 } }

/-! ### Stopping, Unspecified, and the end of a cycle -/

/-- `Stop()` (R180): one atomic test-and-set. -/
def stopBlock (s : State) : State :=
  if s.stopNotified then { s with alive := false }
  else { s with alive := false, stopNotified := true, events := s.events ++ [.stopped] }

/-- `raise Unspecified(u)` (R14): the sticky marker is set, nothing else. -/
def raiseUnspecified (u : UCode) (s : State) : State :=
  match s.ufault with
  | none => { s with ufault := some u }
  | some _ => s

/-- `rx_state <- R_SYNC1`, the end of a decode attempt; in a single-step call the write cycle is next (R185). -/
def endAttempt (s : State) : State :=
  match s.cfg.mode with
  | .threaded => { s with rxState := .sync1 }
  | .singleStep => { s with rxState := .sync1, ssPhase := .write }

/-- The end of a write cycle: a single-step call returns (R186); in THREADED mode nothing changes (R172). -/
def endWriteCycle (s : State) : State :=
  match s.cfg.mode with
  | .threaded => s
  | .singleStep => { s with ssPhase := .none }

/-- `Stop(); rx_state <- R_HALT` (R161, R162, R163). -/
def haltRx (s : State) : State := { stopBlock s with rxState := .halt }

/-- `Stop(); tx_state <- T_HALT` (R171, R175, R176, R177). -/
def haltTx (s : State) : State := { stopBlock s with txState := .halt }

/-! ### RX exceptions -/

/-- The exceptions an RX step can raise (R243). -/
inductive RxException where
  /-- `RxTimeout(state, idx)` (R138) -/
  | timeout (st : RxState) (i : Nat)
  /-- `RxIoErr` (R139) -/
  | ioErr
  /-- `RxOther(DelegateError(e))` (R200) -/
  | other (e : DelCall)
deriving DecidableEq, Repr

/-- What the trace records of an exception (R162): `RxIoErr` has no diagnostic. -/
def exceptionDiag (x : RxException) (s : State) : State :=
  match x with
  | .timeout st i => diag (.rxTimeout st i) s
  | .ioErr => s
  | .other e => diag (.rxOther e) s

/-- Taking an RX exception. THREADED (R162): the diagnostic, `Stop()`, `R_HALT`; no state is saved and there is no return
(R251, R252). SINGLE_STEP (R185): the error is swallowed, the partial frame is discarded, and the call goes on with its
write cycle; this is the only return from an error (R252). -/
def takeRxException (x : RxException) (s : State) : State :=
  match s.cfg.mode with
  | .threaded => haltRx (exceptionDiag x s)
  | .singleStep => endAttempt s

/-! ### Steps and their enabling -/

/-- A step of the block, of HOST, or of an environment agent acting on them. After Unspecified behaviour it is the model's
fault (R14, log 9). A step that is not enabled is not taken: nothing changes (R15, log 8). -/
def whenEnabled (enabled : Bool) (s t : State) : Host.Outcome State Fault Refusal :=
  match s.ufault with
  | some u => .fault (.unspecified u)
  | none => if enabled then .next t else .next s

/-- How the actions of a command end (R200, R14). -/
inductive Ending where
  /-- all actions were made -/
  | done
  /-- a Delegate call failed -/
  | raised (e : DelCall)
  /-- the sources give no behaviour -/
  | unspecified (u : UCode)
deriving DecidableEq, Repr

/-- The end of step `R_DISPATCH` after a command's actions (R137, R162, R185, R14). -/
def endDispatch (r : State × Ending) : State :=
  match r.2 with
  | .done => endAttempt r.1
  | .raised e => takeRxException (.other e) r.1
  | .unspecified u => raiseUnspecified u r.1

/-- RX may take step `R_DISPATCH` (R137, R160). -/
def rxAtDispatch (s : State) : Bool := rxMayStep s && s.rxState == .dispatch

/-- The step `R_DISPATCH` of a frame whose command's actions lead to `r` (R137): one atomic step. -/
def dispatchStep (s : State) (r : State × Ending) : Host.Outcome State Fault Refusal :=
  whenEnabled (rxAtDispatch s) s (endDispatch r)

/-- `Call(e)` for a call that answers unit or `DelegateError` (R13, R256), as a command's last action. -/
def callDelegate (e : DelCall) (s : State) : State × Ending :=
  match nextCall s with
  | .ok => (useCall (emit (.del e) s), .done)
  | .error => (useCall (emit (.del e) s), .raised e)

end Sys2Proof.Machine
end

