-- ==== Sys2Proof/Machine/HostOps.lean ====
section
/-! DEFINITION. The HOST operations: `start`, `stop`, `send_command`, `step` and the status read (R45, R96, R181 to R184). -/

namespace Sys2Proof.Machine

/-- What `start` sets once the transport reset succeeded (R182, R271). -/
def activate (s : State) : State :=
  setStarted { s with rxFifo := [], rxState := .sync1, txState := .idle, ssPhase := .none }

/-- The actions of `start` (R182). Misuse is Unspecified before any other effect; a failed reset is Unspecified after the
`XPT_RESET` event. -/
def startActions (s : State) : State :=
  if s.started || s.stopNotified then raiseUnspecified .start s
  else
    match nextReset s with
    | .ok => activate (useReset (emit .xptReset s))
    | .fail => raiseUnspecified .reset (useReset (emit .xptReset s))

/-- `start` (R182). HOST has no step while a `step` call is in progress (R184). -/
def execStart (s : State) : Host.Outcome State Fault Refusal :=
  whenEnabled (hostMayCall s) s (startActions s)

/-- `stop` (R181). -/
def execStop (s : State) : Host.Outcome State Fault Refusal :=
  whenEnabled (hostMayCall s) s (stopBlock s)

/-- `send_command(c, p)` (R183): enabled in every lifecycle state. -/
def execSendCommand (c : Byte) (p : List Byte) (s : State) : Host.Outcome State Fault Refusal :=
  whenEnabled (hostMayCall s) s (sendFrame c p s)

/-- The actions of `step` (R184). -/
def stepActions (s : State) : State :=
  match s.cfg.mode with
  | .threaded => raiseUnspecified .mode s
  | .singleStep => if s.started && s.alive then { s with ssPhase := .decode } else s

/-- `step` (R184), the start of one single-step call. -/
def execStep (s : State) : Host.Outcome State Fault Refusal :=
  whenEnabled (hostMayCall s) s (stepActions s)

/-- The status read (R45): possible at any time, after Unspecified behaviour too (R14), with no side effect on the block;
`hostStatus` is what HOST was answered (log 12). -/
def execStatusRead (s : State) : Host.Outcome State Fault Refusal :=
  .next { s with hostStatus := some (status s) }

end Sys2Proof.Machine
end

