-- ==== Sys2Proof/Machine/Log.lean ====
section
/-! DEFINITION. The log frames `LOG_DEBUG`, `LOG_INFO`, `LOG_WARN` and `LOG_ERROR` (R210 to R215). -/

namespace Sys2Proof.Machine

/-- The actions of a log command at a level (R210). The text is checked before any other effect. -/
def logActions (l : LogLevel) (p : List Byte) (s : State) : State × Ending :=
  if utf8 p then callDelegate (.log l p) s else (s, .unspecified .text)

/-- `LOG_DEBUG`, command 0x02 (R211). -/
def execLogDebug (p : List Byte) (s : State) : Host.Outcome State Fault Refusal :=
  dispatchStep s (logActions .debug p s)

/-- `LOG_INFO`, command 0x03 (R212). -/
def execLogInfo (p : List Byte) (s : State) : Host.Outcome State Fault Refusal :=
  dispatchStep s (logActions .info p s)

/-- `LOG_WARN`, command 0x04 (R213). -/
def execLogWarn (p : List Byte) (s : State) : Host.Outcome State Fault Refusal :=
  dispatchStep s (logActions .warn p s)

/-- `LOG_ERROR`, command 0x05 (R214). -/
def execLogError (p : List Byte) (s : State) : Host.Outcome State Fault Refusal :=
  dispatchStep s (logActions .error p s)

end Sys2Proof.Machine
end

