-- ==== Sys2Proof/Machine/Param.lean ====
section
/-! DEFINITION. The parameter exchange: the frame `PARAM_REQ` (R220) and DEL's parameter result (R222). -/

namespace Sys2Proof.Machine

/-- `param_issued <- param_issued + 1` (R220). -/
def countParam (s : State) : State := { s with paramIssued := s.paramIssued + 1 }

/-- The actions of `PARAM_REQ` (R220). The name is checked before any other effect; the request carries the number of
requests before it (R27). -/
def paramActions (p : List Byte) (s : State) : State × Ending :=
  if utf8 p then callDelegate (.getParam s.paramIssued p) (countParam s) else (s, .unspecified .text)

/-- `PARAM_REQ`, command 0x08 (R220). -/
def execParamReq (p : List Byte) (s : State) : Host.Outcome State Fault Refusal :=
  dispatchStep s (paramActions p s)

/-- DEL completes request `k` with a list of words (R222): enabled for every request issued, at any time, any number of
times. -/
def execDelParamResult (k : Nat) (values : List Word) (s : State) : Host.Outcome State Fault Refusal :=
  whenEnabled (decide (k < s.paramIssued)) s (sendFrame 0x08#8 (wordsBytes values) s)

end Sys2Proof.Machine
end

