-- ==== Sys2Proof/Machine/Publish.lean ====
section
/-! DEFINITION. The publish frames, commands 0x10 to 0xFF (R225), one definition for each row of the opcode table. -/

namespace Sys2Proof.Machine

/-- The actions of a publish command (R225). -/
def publishActions (c : Byte) (p : List Byte) (s : State) : State × Ending :=
  callDelegate (.publish c p) s

/-- Commands 0x10 to 0x1F (R225). -/
def execPublish101F (low : BitVec 4) (p : List Byte) (s : State) : Host.Outcome State Fault Refusal :=
  dispatchStep s (publishActions (0b0001#4 ++ low) p s)

/-- Commands 0x20 to 0x3F (R225). -/
def execPublish203F (low : BitVec 5) (p : List Byte) (s : State) : Host.Outcome State Fault Refusal :=
  dispatchStep s (publishActions (0b001#3 ++ low) p s)

/-- Commands 0x40 to 0x7F (R225). -/
def execPublish407F (low : BitVec 6) (p : List Byte) (s : State) : Host.Outcome State Fault Refusal :=
  dispatchStep s (publishActions (0b01#2 ++ low) p s)

/-- Commands 0x80 to 0xFF (R225). -/
def execPublish80FF (low : BitVec 7) (p : List Byte) (s : State) : Host.Outcome State Fault Refusal :=
  dispatchStep s (publishActions (0b1#1 ++ low) p s)

/-- The topics the source names (R92). No rule reads the names. -/
def topicName (c : Byte) : Option String :=
  if c = 0x10#8 then some "touch"
  else if c = 0x11#8 then some "touch_raw"
  else if c = 0x12#8 then some "buttons"
  else if c = 0x13#8 then some "imu"
  else if c = 0x14#8 then some "calibration"
  else if c = 0x15#8 then some "pressure"
  else if c = 0x16#8 then some "temperature"
  else if c = 0x20#8 then some "wifi"
  else none

end Sys2Proof.Machine
end

