-- ==== Sys2Proof/Machine/TimeSync.lean ====
section
/-! DEFINITION. The time-sync exchange: the frame `TIME_SYNC` (R201 to R207) and DEL's answer to `SYSTIME` (R203). -/

namespace Sys2Proof.Machine

/-- R201 from the answered `SYSTIME` call on: reply, `time_synced`, offset, in that order (R204, R205, R206). -/
def timeSyncAnswered (p : List Byte) (a : SysTimeAnswer) (s : State) : State × Ending :=
  match a with
  | .time hs hn =>
    (diag (.timeOffset (diffMs s.cfg.timeSigned hs hn (wordAt p 0) (wordAt p 4)))
      (setTimeSynced (sendFrame 0x01#8 (timeReply hs hn) s)), .done)
  | .error => (s, .raised .sysTime)

/-- The actions of `TIME_SYNC` (R201). The payload's length is checked before any other effect (R202). -/
def timeSyncActions (p : List Byte) (s : State) : State × Ending :=
  if p.length ≠ 8 then (s, .unspecified .syncLen)
  else timeSyncAnswered p (nextSysTime s) (useSysTime (emit (.del .sysTime) s))

/-- `TIME_SYNC`, command 0x01 (R201). -/
def execTimeSync (p : List Byte) (s : State) : Host.Outcome State Fault Refusal :=
  dispatchStep s (timeSyncActions p s)

/-- The frame RX is about to dispatch is a well-formed time-sync request, so that a `SYSTIME` call is DEL's to answer. -/
def sysTimeCalled (s : State) : Bool :=
  rxAtDispatch s && classify s.rxCmd == .timeSync && s.rxLen == 8#16

/-- DEL puts its answer before those already given. -/
def offerSysTime (a : SysTimeAnswer) (s : State) : State :=
  { s with draws := { s.draws with sysTime := a :: s.draws.sysTime } }

/-- DEL answers `SYSTIME` (R203). The call and its answer are part of the atomic `R_DISPATCH` step of a time-sync frame
(R137), so this input IS that step, taken with the answer `a`. DEDUCED (log 10). -/
def execDelSystimeAnswer (a : SysTimeAnswer) (s : State) : Host.Outcome State Fault Refusal :=
  whenEnabled (sysTimeCalled s) s (endDispatch (timeSyncActions (rxPayload s) (offerSysTime a s)))

end Sys2Proof.Machine
end

