-- ==== Sys2Proof/Machine/Transport.lean ====
section
/-! DEFINITION. XPT's input steps (R257): a byte arrives, an RX wait times out (R138), an RX call fails (R139). -/

namespace Sys2Proof.Machine

/-- `arrive(b)` (R257): enabled in every state. -/
def execXptByte (b : Byte) (s : State) : Host.Outcome State Fault Refusal :=
  .next { s with rxFifo := s.rxFifo ++ [b] }

/-- `timeout` (R138, R257): RX's current step raises `RxTimeout`. -/
def execXptTimeout (s : State) : Host.Outcome State Fault Refusal :=
  whenEnabled (rxMayStep s && rxWaiting s) s (takeRxException (.timeout s.rxState (waitPosition s)) s)

/-- `ioerr` (R139, R257): RX's current step raises `RxIoErr`. -/
def execXptIoerr (s : State) : Host.Outcome State Fault Refusal :=
  whenEnabled (rxMayStep s && rxCallsTransport s) s (takeRxException .ioErr s)

end Sys2Proof.Machine
end

