-- ==== Sys2Proof/Machine/Unknown.lean ====
section
/-! DEFINITION. The reserved commands 0x00, 0x06, 0x07 and 0x09 to 0x0F (R93, R230), one definition for each row of the
opcode table. -/

namespace Sys2Proof.Machine

/-- The actions of an unknown command (R230): one diagnostic, nothing else. -/
def unknownActions (c : Byte) (p : List Byte) (s : State) : State × Ending :=
  (diag (.unknownCmd c p.length) s, .done)

/-- Command 0x00 (R230, 90_conflicts.md C3). -/
def execUnknown00 (p : List Byte) (s : State) : Host.Outcome State Fault Refusal :=
  dispatchStep s (unknownActions 0x00#8 p s)

/-- Commands 0x06 and 0x07 (R230). -/
def execUnknown0607 (low : BitVec 1) (p : List Byte) (s : State) : Host.Outcome State Fault Refusal :=
  dispatchStep s (unknownActions (0b0000011#7 ++ low) p s)

/-- Command 0x09 (R230). -/
def execUnknown09 (p : List Byte) (s : State) : Host.Outcome State Fault Refusal :=
  dispatchStep s (unknownActions 0x09#8 p s)

/-- Commands 0x0A and 0x0B (R230). -/
def execUnknown0A0B (low : BitVec 1) (p : List Byte) (s : State) : Host.Outcome State Fault Refusal :=
  dispatchStep s (unknownActions (0b0000101#7 ++ low) p s)

/-- Commands 0x0C to 0x0F (R230). -/
def execUnknown0C0F (low : BitVec 2) (p : List Byte) (s : State) : Host.Outcome State Fault Refusal :=
  dispatchStep s (unknownActions (0b000011#6 ++ low) p s)

end Sys2Proof.Machine
end

