-- ==== Sys2Proof/Machine/Writer.lean ====
section
/-! DEFINITION. The Writer Loop (R170 to R178, R186): XPT's answer to a write, which is TX's step in `T_BUSY`, and TX's
other steps, which are no instruction of the table. -/

namespace Sys2Proof.Machine

/-- The bytes of the frame that are not written yet: what `TxWrite` offers (R173). -/
def txRemaining (s : State) : Nat := s.txCur.length - s.txOff

/-- XPT accepts the next `k` bytes: they go on `tx_wire` (R258) and `tx_off` grows (R173). -/
def txAccept (k : Nat) (s : State) : State :=
  { s with txWire := s.txWire ++ (s.txCur.drop s.txOff).take k, txOff := s.txOff + k }

/-- `ACCEPT(k)`, the bytes already taken: the end of the frame ends the write cycle (R173, R186). -/
def txAccepted (s : State) : State :=
  if s.txOff = s.txCur.length then endWriteCycle { s with txState := .idle } else s

/-- A timed-out frame's remainder in THREADED mode (R174). Under `DROP_REMAINDER` the registers are left with no value:
free values, DESIGN CHOICE (log 6). -/
def dropRemainder (s : State) : State :=
  match s.cfg.wrTimeoutPolicy with
  | .retryRemainder => s
  | .dropRemainder =>
    { s with
      txCur := Config.noTxCur s.draws.used
      txOff := Config.noTxOff s.draws.used
      draws := { s.draws with used := s.draws.used + 1 } }

/-- `tx_state` after a single-step write timeout that does not stop the block (R186). -/
def resumeState (p : WrTimeoutPolicy) : TxState :=
  match p with
  | .retryRemainder => .busy
  | .dropRemainder => .idle

/-- A single-step write timeout (R186): the draw says whether "writing fails". `tx_cur` and `tx_off` keep the frame and the
offset (log 20). -/
def txTimedOutSingle (s : State) : State :=
  match nextTimeout s with
  | .continue =>
    { diag (.txTimeout s.txOff s.txCur.length) (useTimeout s) with
      txState := resumeState s.cfg.wrTimeoutPolicy, ssPhase := .none }
  | .stop =>
    { stopBlock (diag (.txTimeout s.txOff s.txCur.length) (useTimeout s)) with txState := .idle, ssPhase := .none }

/-- `TIMEOUT(k)`, the bytes already taken (R174, R186). -/
def txTimedOut (s : State) : State :=
  match s.cfg.mode with
  | .threaded => dropRemainder { diag (.txTimeout s.txOff s.txCur.length) s with txState := .pause }
  | .singleStep => txTimedOutSingle s

/-- `FAULT(k)`, the bytes already taken (R176, R186). -/
def txFaulted (s : State) : State :=
  match s.cfg.mode with
  | .threaded => haltTx (diag (.txFault s.txOff s.txCur.length) s)
  | .singleStep =>
    { stopBlock (diag (.txFault s.txOff s.txCur.length) s) with txState := .idle, ssPhase := .none }

/-- What an answer does (R173, R174, R176, R186, R258). -/
def txAnswered (a : WriteAnswer) (s : State) : State :=
  match a with
  | .accept k => txAccepted (txAccept k s)
  | .timeout k => txTimedOut (txAccept k s)
  | .fault k => txFaulted (txAccept k s)

/-- A `TxWrite` is TX's next step (R173). -/
def txWriting (s : State) : Bool :=
  txMayStep s && s.txState == .busy && decide (s.txOff < s.txCur.length)

/-- XPT answers `TxWrite(tx_cur[tx_off..])` (R258). The offer and its answer are one atomic step of TX (R173), so this
input IS that step (log 11). -/
def execXptWriteAnswer (a : WriteAnswer) (s : State) : Host.Outcome State Fault Refusal :=
  whenEnabled (txWriting s && answerFits a (txRemaining s)) s (txAnswered a s)

/-- `T_IDLE` with a cycle to do: `Dequeue`, or nothing to write (R172, R186). -/
def txDequeue (s : State) : State :=
  match s.queue with
  | [] => endWriteCycle s
  | f :: rest => { s with queue := rest, txCur := f, txOff := 0, txState := .busy }

/-- `T_IDLE` (R171, R172). -/
def txIdleStep (s : State) : State :=
  if s.cfg.mode = .threaded ∧ s.alive = false then haltTx s else txDequeue s

/-- The end of the pause after a write timeout (R175). `T_PAUSE` is a state of THREADED mode only; no rule gives it a step
in SINGLE_STEP mode, where no run reaches it (log 15). -/
def txPauseStep (s : State) : State :=
  match s.cfg.mode with
  | .singleStep => s
  | .threaded => if s.alive = false then haltTx s else { s with txState := resumeState s.cfg.wrTimeoutPolicy }

/-- TX's next step outside a `TxWrite` (R171, R172, R175). In `T_BUSY` its next step is XPT's answer (log 11). -/
def writerStep (s : State) : State :=
  match s.txState with
  | .idle => txIdleStep s
  | .pause => txPauseStep s
  | .busy => s
  | .halt => s

/-- TX's own step (R170). -/
def txMove (s : State) : Host.Outcome State Fault Refusal :=
  whenEnabled (txMayStep s) s (writerStep s)

/-- TX may exit between partial writes after a stop (R177). -/
def txMayExit (s : State) : Bool :=
  txMayStep s && s.cfg.mode == .threaded && !s.alive && s.txState == .busy

/-- TX's optional exit (R177). -/
def txExitMove (s : State) : Host.Outcome State Fault Refusal :=
  whenEnabled (txMayExit s) s (haltTx s)

end Sys2Proof.Machine
end

