-- ==== Sys2Proof/Machine/Dispatch.lean ====
section
/-! DEFINITION. One arm for each instruction: its meaning. -/

namespace Sys2Proof.Machine

/-- The meaning of an instruction. -/
def exec (i : Instr) (s : State) : Host.Outcome State Fault Refusal :=
  match i with
  | .unknown00 p => Sys2Proof.Machine.execUnknown00 p s
  | .timeSync p => Sys2Proof.Machine.execTimeSync p s
  | .logDebug p => Sys2Proof.Machine.execLogDebug p s
  | .logInfo p => Sys2Proof.Machine.execLogInfo p s
  | .logWarn p => Sys2Proof.Machine.execLogWarn p s
  | .logError p => Sys2Proof.Machine.execLogError p s
  | .unknown0607 low p => Sys2Proof.Machine.execUnknown0607 low p s
  | .paramReq p => Sys2Proof.Machine.execParamReq p s
  | .unknown09 p => Sys2Proof.Machine.execUnknown09 p s
  | .unknown0A0B low p => Sys2Proof.Machine.execUnknown0A0B low p s
  | .unknown0C0F low p => Sys2Proof.Machine.execUnknown0C0F low p s
  | .publish101F low p => Sys2Proof.Machine.execPublish101F low p s
  | .publish203F low p => Sys2Proof.Machine.execPublish203F low p s
  | .publish407F low p => Sys2Proof.Machine.execPublish407F low p s
  | .publish80FF low p => Sys2Proof.Machine.execPublish80FF low p s
  | .start => Sys2Proof.Machine.execStart s
  | .stop => Sys2Proof.Machine.execStop s
  | .sendCommand c p => Sys2Proof.Machine.execSendCommand c p s
  | .step => Sys2Proof.Machine.execStep s
  | .statusRead => Sys2Proof.Machine.execStatusRead s
  | .xptByte b => Sys2Proof.Machine.execXptByte b s
  | .xptTimeout => Sys2Proof.Machine.execXptTimeout s
  | .xptIoerr => Sys2Proof.Machine.execXptIoerr s
  | .xptWriteAnswer a => Sys2Proof.Machine.execXptWriteAnswer a s
  | .delSystimeAnswer a => Sys2Proof.Machine.execDelSystimeAnswer a s
  | .delParamResult k values => Sys2Proof.Machine.execDelParamResult k values s

end Sys2Proof.Machine
end

