-- ==== Sys2Proof/Machine/Reader.lean ====
section
/-! DEFINITION. The steps of RX that are no instruction of the table: the decoder steps up to `R_CSUM` (R120 to R136), the
loop boundary (R161) and the optional exit (R163). -/

namespace Sys2Proof.Machine

/-- `RxTake()` of a pending byte (R13, R68): what is left in `rx_fifo`. -/
def rxTake (rest : List Byte) (s : State) : State := { s with rxFifo := rest }

/-- `read_count` grows by `rx_len` where `READ_COUNT_POINT` says so (R133, R136). -/
def countRead (point : ReadCountPoint) (s : State) : State :=
  if s.cfg.readCountPoint = point then { s with readCount := s.readCount + s.rxLen.toNat } else s

/-- `R_SYNC1` with a byte pending (R121, R122). -/
def readSync1 (b : Byte) (s : State) : State :=
  if b = syncByte then { s with rxState := .sync2 } else endAttempt (diag (.dropSync1 b) s)

/-- `R_SYNC2` (R123, R124). -/
def readSync2 (b : Byte) (s : State) : State :=
  if b = syncByte then { s with rxState := .cmd } else endAttempt (diag (.dropSync2 b) s)

/-- `R_CMD` (R126). -/
def readCmd (b : Byte) (s : State) : State :=
  { s with rxCmd := b, rxIdx := 0#16, rxState := .len }

/-- `R_LEN`, low byte (R128). -/
def readLenLo (b : Byte) (s : State) : State :=
  { s with rxLen := setLenLo s.rxLen b, rxIdx := 1#16 }

/-- `rx_state` after the length: an empty payload is complete at once (R130, R131). -/
def afterLen (s : State) : State :=
  if s.rxLen = 0#16 then { countRead .onPayload s with rxState := .csum } else { s with rxState := .payload }

/-- `R_LEN`, high byte (R130). -/
def readLenHi (b : Byte) (s : State) : State :=
  afterLen { s with rxLen := setLenHi s.rxLen b, rxIdx := 0#16 }

/-- `rx_buf[rx_idx] <- b; rx_idx <- rx_idx + 1` (R132). -/
def storePayload (b : Byte) (s : State) : State :=
  { s with rxBuf := memWrite s.rxBuf s.rxIdx.toNat b, rxIdx := s.rxIdx + 1#16 }

/-- `rx_state` after a payload byte (R132, R133). -/
def afterPayload (s : State) : State :=
  if s.rxIdx = s.rxLen then { countRead .onPayload s with rxState := .csum } else s

/-- `R_PAYLOAD` (R132). -/
def readPayload (b : Byte) (s : State) : State := afterPayload (storePayload b s)

/-- `R_CSUM` (R134, R135, R136). -/
def readCsum (k : Byte) (s : State) : State :=
  if k = checksum (rxPayload s) then { countRead .onAccept s with rxState := .dispatch }
  else endAttempt (diag (.dropChecksum s.rxCmd s.rxLen.toNat k (checksum (rxPayload s))) s)

/-- RX takes one pending byte in its state. In states that no run reaches, with `rx_idx` past the end of its read step, no
rule of the spec takes a byte, and nothing happens (log 15). -/
def readByte (b : Byte) (rest : List Byte) (s : State) : State :=
  match s.rxState with
  | .sync1 => readSync1 b (rxTake rest s)
  | .sync2 => readSync2 b (rxTake rest s)
  | .cmd => readCmd b (rxTake rest s)
  | .len =>
    if s.rxIdx = 0#16 then readLenLo b (rxTake rest s)
    else if s.rxIdx = 1#16 then readLenHi b (rxTake rest s)
    else s
  | .payload => if s.rxIdx < s.rxLen then readPayload b (rxTake rest s) else s
  | .csum => readCsum b (rxTake rest s)
  | .dispatch => s
  | .halt => s

/-- RX with nothing pending: the poll of `R_SYNC1` ends the attempt (R120); in any other state RX waits and has no step. -/
def readNothing (s : State) : State :=
  match s.rxState with
  | .sync1 => endAttempt s
  | .sync2 | .cmd | .len | .payload | .csum | .dispatch | .halt => s

/-- The iteration boundary of the THREADED loop after a stop (R161). -/
def rxExitsAtBoundary (s : State) : Bool :=
  s.cfg.mode == .threaded && !s.alive && s.rxState == .sync1

/-- RX's next step in every state but `R_DISPATCH` (R120 to R136, R161). -/
def readerStep (s : State) : State :=
  if rxExitsAtBoundary s then haltRx s
  else
    match s.rxFifo with
    | [] => readNothing s
    | b :: rest => readByte b rest s

/-- RX may exit between two read steps after a stop (R163), but not while it waits: a wait goes on until a byte, a timeout
or an I/O error ends it (R288, R163's corner case). That a read state at its first byte with nothing pending is such a wait
is DEDUCED (log 22). -/
def rxMayExit (s : State) : Bool :=
  rxMayStep s && s.cfg.mode == .threaded && !s.alive && atReadBoundary s && !rxWaiting s

/-- RX's optional exit (R163). -/
def rxExitMove (s : State) : Host.Outcome State Fault Refusal :=
  whenEnabled (rxMayExit s) s (haltRx s)

end Sys2Proof.Machine
end

