-- ==== Sys2Proof/Machine/Moves.lean ====
section
/-! DEFINITION. How the machine moves: which move is next (R15, log 1), the instruction RX dispatches (its fetch), what each
move does, and how a frame is placed for RX to dispatch next (log 14). -/

namespace Sys2Proof.Machine

/-- The next move: the schedule's first, or a free one (R15). DESIGN CHOICE (log 1). -/
def nextMove (s : State) : Move :=
  match s.schedule with
  | m :: _ => m
  | [] => Config.freeMove s.moved

/-- The state once that move is taken from the schedule. -/
def takeMove (s : State) : State := { s with schedule := s.schedule.tail, moved := s.moved + 1 }

/-- The instruction in the RX registers: the frame that `R_CSUM` validated (R137). -/
def fetched (s : State) : Instr := instrOf s.rxCmd (rxPayload s)

/-- RX's own step. In `R_DISPATCH` it runs the fetched instruction (R137); in every other state it is a decoder or loop
step (R120 to R136, R161). -/
def rxMove (s : State) : Host.Outcome State Fault Refusal :=
  if s.rxState = .dispatch then exec (fetched s) s
  else whenEnabled (rxMayStep s) s (readerStep s)

/-- A move of the environment: HOST operations and environment inputs. A frame does not arrive by itself: RX decodes it
from the bytes, so naming one here is no step of any agent (log 8). -/
def inputMove (i : Instr) (s : State) : Host.Outcome State Fault Refusal :=
  if i.isPort then exec i s else .next s

/-- What a move does (R15): one atomic step of one agent. -/
def runMove (m : Move) (s : State) : Host.Outcome State Fault Refusal :=
  match m with
  | .rx => rxMove s
  | .rxExit => rxExitMove s
  | .tx => txMove s
  | .txExit => txExitMove s
  | .input i => inputMove i s

/-- The frame of a table word, placed as if the peer had sent it and RX had decoded it up to `R_DISPATCH`, with RX to move
next. DESIGN CHOICE (log 14). -/
def placeFrame (c : Byte) (p : List Byte) (s : State) : State :=
  { s with
    started := true
    alive := true
    ufault := none
    rxState := .dispatch
    rxCmd := c
    rxLen := BitVec.ofNat 16 p.length
    rxIdx := BitVec.ofNat 16 p.length
    rxBuf := memLoad s.rxBuf 0 p
    ssPhase := match s.cfg.mode with
      | .threaded => .none
      | .singleStep => .decode
    schedule := .rx :: s.schedule }

/-- `placeFrame` of the frame the decoder reads from a table word (log 14). -/
def placeWord (nbits w : Nat) (s : State) : State :=
  match decode1 (tableFrame nbits w) with
  | (.frame c p, _) => placeFrame c p s
  | _ => s

end Sys2Proof.Machine
end

