-- ==== Sys2Proof/Machine/Step.lean ====
section
/-! DEFINITION. One step of the machine, and how an instruction is placed for the next step to run. -/

namespace Sys2Proof.Machine

/-- One atomic step: the next move of the schedule is taken (R15, log 1; R70, log 21). -/
def step (s : State) : Host.Outcome State Fault Refusal := runMove (nextMove s) (takeMove s)

/-- The state with a table word's frame where the next step fetches it (log 14). -/
def State.withFetchWord (s : State) (nbits w : Nat) : State := placeWord nbits w s

end Sys2Proof.Machine
end

