-- ==== Sys2Proof/Machine/Diagnostics.lean ====
section
/-! DEFINITION. What spec/60_exceptions.md says about each diagnostic: its code (R241), the level the source names for it
(R242) and its class (R240). -/

namespace Sys2Proof.Machine

/-- The numeric code of a diagnostic (R241). -/
def Diag.code : Diag → Byte
  | .dropSync1 _ => 0x01#8
  | .dropSync2 _ => 0x02#8
  | .dropChecksum _ _ _ _ => 0x03#8
  | .unknownCmd _ _ => 0x10#8
  | .timeOffset _ => 0x11#8
  | .rxTimeout _ _ => 0x20#8
  | .rxOther _ => 0x21#8
  | .txTimeout _ _ => 0x30#8
  | .txFault _ _ => 0x31#8

/-- The level the source names (R242); none where it names none. -/
def Diag.severity : Diag → Option LogLevel
  | .dropSync1 _ | .dropSync2 _ | .dropChecksum _ _ _ _ => some .debug
  | .unknownCmd _ _ | .txTimeout _ _ => some .error
  | .timeOffset _ | .rxTimeout _ _ | .rxOther _ | .txFault _ _ => none

/-- The class column of R241's table. -/
inductive DiagClass where
  | drop
  | logged
  | information
  | fatal
deriving DecidableEq, Repr

/-- The class of a diagnostic (R240, R241). -/
def Diag.errorClass : Diag → DiagClass
  | .dropSync1 _ | .dropSync2 _ | .dropChecksum _ _ _ _ => .drop
  | .unknownCmd _ _ | .txTimeout _ _ => .logged
  | .timeOffset _ => .information
  | .rxTimeout _ _ | .rxOther _ | .txFault _ _ => .fatal

end Sys2Proof.Machine
end

