-- ==== Sys2Proof/Machine/Runs.lean ====
section
/-! DEFINITION. Runs under a schedule and the one progress assumption of R15: weak fairness of RX and TX. Beside it stand
the premises on XPT that R188 names. All of them are premises for claims about runs; no step depends on them. -/

namespace Sys2Proof.Machine

/-- A run under a schedule: the schedule names one move for each step, and every step is taken (R15, log 23). -/
def IsRun (σ : Nat → Move) (r : Nat → State) : Prop := ∀ n, runMove (σ n) (r n) = .next (r (n + 1))

/-- Weak fairness of one agent: if it has a step at every point from some point on, it takes one at or after that point. -/
def WeaklyFair (hasStep : State → Bool) (takes : State → Move → Prop) (σ : Nat → Move) (r : Nat → State) : Prop :=
  ∀ n, (∀ m, n ≤ m → hasStep (r m) = true) → ∃ m, n ≤ m ∧ takes (r m) (σ m)

/-- RX has a step (R160): it may step and does not wait. -/
def rxHasStep (s : State) : Bool := rxMayStep s && !rxWaiting s

/-- The move is a step of RX: its next step, its optional exit (R163), or its dispatch with DEL's answer (log 10). -/
def RxTakes (s : State) (m : Move) : Prop :=
  m = .rx ∨ (m = .rxExit ∧ rxMayExit s = true) ∨
    ∃ a, m = .input (.delSystimeAnswer a) ∧ sysTimeCalled s = true

/-- TX has a step (R170): it may step, and in `T_BUSY` it has bytes to offer (R173). -/
def txHasStep (s : State) : Bool := txMayStep s && (s.txState != .busy || txWriting s)

/-- The move is a write answer that XPT can give (R258), which is TX's step in `T_BUSY` (log 11). -/
def WriteTakes (s : State) (m : Move) (a : WriteAnswer) : Prop :=
  m = .input (.xptWriteAnswer a) ∧ txWriting s = true ∧ answerFits a (txRemaining s) = true

/-- The move is a step of TX: its next step, its optional exit (R177), or a write with XPT's answer. -/
def TxTakes (s : State) (m : Move) : Prop :=
  (m = .tx ∧ s.txState ≠ .busy) ∨ (m = .txExit ∧ txMayExit s = true) ∨ ∃ a, WriteTakes s m a

/-- R15's progress assumption: weak fairness for RX and TX. -/
def Fair (σ : Nat → Move) (r : Nat → State) : Prop :=
  WeaklyFair rxHasStep RxTakes σ r ∧ WeaklyFair txHasStep TxTakes σ r

/-- R188's first premise: every RX wait ends. -/
def WaitsEnd (r : Nat → State) : Prop := ∀ n, rxWaiting (r n) = true → ∃ m, n ≤ m ∧ rxWaiting (r m) = false

/-- R188's second premise: a `TxWrite` is not answered `ACCEPT(0)` for ever. It is weak fairness of XPT's other answers, the
fairness R15 gives an XPT step that a claim's premises require. -/
def WritesProgress (σ : Nat → Move) (r : Nat → State) : Prop :=
  WeaklyFair txWriting (fun s m => ∃ a, WriteTakes s m a ∧ a ≠ .accept 0) σ r

end Sys2Proof.Machine
end

