-- ==== Sys2Proof/Safety.lean ====
section
/-! DEFINITION. What claims are stated in terms of: when a run is ended (R275), the trace's counts (R187, R27), and the
invariant of the block's registers. -/

namespace Sys2Proof.Machine

/-- The run is ended (R275). -/
def State.ended (s : State) : Bool :=
  s.ufault.isNone &&
    match s.cfg.mode with
    | .threaded => s.rxState == .halt && s.txState == .halt
    | .singleStep => !s.alive && s.ssPhase == .none

/-- How many `STOPPED` events a trace holds (R187). -/
def stoppedCount (es : List Event) : Nat := es.countP fun e => e == .stopped

/-- An event that is a parameter request (R220). -/
def isGetParam : Event → Bool
  | .del (.getParam _ _) => true
  | .del (.log _ _) | .del (.publish _ _) | .del .sysTime | .stopped | .xptReset | .diag _ => false

/-- The lifecycle flags agree with each other and with the state registers (R22 to R24, R160 to R164, R170 to R178). -/
def LifecycleInv (s : State) : Prop :=
  (s.started = false → s.rxState = .sync1 ∧ s.txState = .idle ∧ s.ssPhase = .none) ∧
  (s.alive = true → s.started = true ∧ s.stopNotified = false) ∧
  (s.started = true → s.alive = false → s.stopNotified = true) ∧
  (s.rxState = .halt → s.stopNotified = true) ∧
  (s.txState = .halt → s.stopNotified = true)

/-- The mode's own registers (R35, R162, R175, R184 to R186): no phase in THREADED mode; in SINGLE_STEP mode no halt and no
pause, a decode attempt in progress only inside a decode cycle, and a call in progress only while the block is alive. -/
def ModeInv (s : State) : Prop :=
  (s.cfg.mode = .threaded → s.ssPhase = .none) ∧
  (s.cfg.mode = .singleStep → s.rxState ≠ .halt ∧ s.txState ≠ .halt ∧ s.txState ≠ .pause) ∧
  (s.cfg.mode = .singleStep → s.ssPhase ≠ .decode → s.rxState = .sync1) ∧
  (s.cfg.mode = .singleStep → s.ssPhase ≠ .none → s.alive = true)

/-- The position registers stay inside their read and write steps (R128, R132, R173, R174), and `rx_buf` keeps its canonical
form (log 5). -/
def PositionInv (s : State) : Prop :=
  (s.rxState = .len → s.rxIdx = 0#16 ∨ s.rxIdx = 1#16) ∧
  (s.rxState = .payload → s.rxIdx < s.rxLen) ∧
  (s.txState = .busy → s.txOff < s.txCur.length) ∧
  (s.txState = .pause → s.cfg.wrTimeoutPolicy = .retryRemainder → s.txOff < s.txCur.length) ∧
  (s.rxBuf.wf = true)

/-- Every frame in the queue is an output of the encoder (R63, R117). -/
def QueueInv (s : State) : Prop :=
  ∀ f ∈ s.queue, ∃ c p, f = encodeTx s.cfg.txLenBytes c p

/-- The trace's counts agree with the hidden registers (R24, R27, R187). -/
def TraceInv (s : State) : Prop :=
  stoppedCount s.events = (if s.stopNotified then 1 else 0) ∧
  s.events.countP isGetParam = s.paramIssued

/-- What `tx_wire` is made of under `RETRY_REMAINDER` (R71, R285): whole encoded frames, then the part of the current frame
that was accepted so far; between frames there is no such part while nothing has stopped the block. -/
def WireInv (s : State) : Prop :=
  s.cfg.wrTimeoutPolicy = .retryRemainder →
    ∃ (fs : List (List Byte)) (part : List Byte),
      s.txWire = fs.flatten ++ part ∧
      (∀ f ∈ fs, ∃ c p, f = encodeTx s.cfg.txLenBytes c p) ∧
      (s.txState = .busy ∨ s.txState = .pause →
        part = s.txCur.take s.txOff ∧ ∃ c p, s.txCur = encodeTx s.cfg.txLenBytes c p) ∧
      (s.txState = .idle → s.stopNotified = false → part = []) ∧
      (∃ c p, part <+: encodeTx s.cfg.txLenBytes c p)

/-- The block's invariant: it holds after construction and every step keeps it. -/
def BlockInv (s : State) : Prop :=
  LifecycleInv s ∧ ModeInv s ∧ PositionInv s ∧ QueueInv s ∧ TraceInv s

/-! ### Words that statements are written with -/

/-- `ss_phase` once a decode attempt has ended (R185). -/
def phaseAfterAttempt (s : State) : SsPhase := if s.cfg.mode = .singleStep then .write else s.ssPhase

/-- The events `Stop()` adds (R180). -/
def stopEvents (s : State) : List Event := if s.stopNotified then [] else [.stopped]

/-- What is left when the Delegate fails the call `e`, made as event and answered (R200, R162, R185): THREADED logs and
stops, SINGLE_STEP swallows. `d` are the draws once the answer is used. -/
def afterFailedCall (e : DelCall) (d : Draws) (s : State) : State :=
  match s.cfg.mode with
  | .threaded =>
    { s with
      events := s.events ++ [.del e, .diag (.rxOther e)] ++ stopEvents s
      alive := false, stopNotified := true, rxState := .halt, draws := d }
  | .singleStep =>
    { s with events := s.events ++ [.del e], rxState := .sync1, ssPhase := .write, draws := d }

/-- What is left when the Delegate accepts the call `e`, the last action of a command (R137). -/
def afterCall (e : DelCall) (d : Draws) (s : State) : State :=
  { s with events := s.events ++ [.del e], rxState := .sync1, ssPhase := phaseAfterAttempt s, draws := d }

/-- The value of a time word as R12 writes it: `sint32` or `uint32`. -/
def wordValue (signed : Bool) (w : Word) : Int :=
  if signed ∧ 2 ^ 31 ≤ w.toNat then (w.toNat : Int) - 2 ^ 32 else (w.toNat : Int)

/-- The same state with other durations (R10). -/
def State.withDurations (d : Durations) (s : State) : State := { s with cfg := { s.cfg with durations := d } }

/-- An outcome with its next state changed. -/
def mapNext (f : State → State) : Host.Outcome State Fault Refusal → Host.Outcome State Fault Refusal
  | .next s => .next (f s)
  | .fault r => .fault r
  | .refused r => .refused r

/-- RX takes `n` steps of its own, with no other agent's step between them (R142). -/
def rxRun : Nat → State → Host.Outcome State Fault Refusal
  | 0, s => .next s
  | n + 1, s =>
    match runMove .rx s with
    | .next t => rxRun n t
    | .fault r => .fault r
    | .refused r => .refused r

/-- The R241 code of a drop. -/
def dropNumber : DropCode → Byte
  | .sync1 => 0x01#8
  | .sync2 => 0x02#8
  | .checksum => 0x03#8

/-- The UTF-8 bytes of a text, by the library's own encoder. -/
def textBytes (cs : List Char) : List Byte := cs.flatMap fun c => (String.utf8EncodeChar c).map UInt8.toBitVec

end Sys2Proof.Machine
end

