-- ==== Sys2Proof/WellFormed.lean ====
section
/-! DEFINITION. Which instructions can be written at all. The only check is R81's: a frame's payload has at most 65535
bytes, because its length field has 16 bits. Every other operand is bounded by its type. -/

namespace Sys2Proof

/-- The largest payload an RX frame can carry (R11, R81). -/
abbrev maxPayload : Nat := 65535

/-- An RX frame's payload fits its length field (R81); a port operation has no bound (R96, R97). -/
def Instr.wellFormed (i : Instr) : Bool :=
  match i.frame with
  | some (_, p) => decide (p.length ≤ maxPayload)
  | none => true

end Sys2Proof
end

