-- ==== Sys2Proof/Certificates/Slice0/Obligations.lean ====
section
/-! DEFINITION. The statements for the provers. Each docstring names the rules of spec/ it formalises. -/

open Sys2Proof Sys2Proof.Machine

/-! ### The codec -/

/-- R111: the three checksum identities. -/
def Obligations.ChecksumIdentities : Prop :=
  ∀ p : List Byte,
    ((checksum p).toNat : Int) = (255 - (byteSum p : Int)) % 256 ∧
    checksum p = BitVec.ofNat 8 (byteSum p) ^^^ 0xFF#8 ∧
    sum8 (p ++ [checksum p]) = 0xFF#8

/-- R112: what the checksum detects and what it does not. -/
def Obligations.ChecksumDetection : Prop :=
  (∀ (p : List Byte) (i : Nat) (h : i < p.length) (b : Byte), b ≠ p[i] → checksum (p.set i b) ≠ checksum p) ∧
  (∀ (p : List Byte) (k : Byte), k ≠ checksum p → sum8 (p ++ [k]) ≠ 0xFF#8) ∧
  (∀ p q : List Byte, p.Perm q → checksum p = checksum q) ∧
  (∀ p q : List Byte, checksum (p ++ 0#8 :: q) = checksum (p ++ q)) ∧
  (∀ (p : List Byte) (i j : Nat) (hi : i < p.length) (hj : j < p.length) (b c : Byte), i ≠ j →
    (b.toNat + c.toNat) % 256 = (p[i].toNat + p[j].toNat) % 256 → checksum ((p.set i b).set j c) = checksum p) ∧
  (∀ (c c' : Byte) (p rest : List Byte), p.length ≤ maxPayload →
    decode1 ((rxFrame c p).set 2 c' ++ rest) = (.frame c' p, rest)) ∧
  (∀ (c : Byte) (p : List Byte), (rxFrame c p).getLast? = some (checksum p))

/-- The decoder gives every well-formed frame instruction back from its encoding, whatever follows it (R81, R90, R143). -/
def Obligations.DecodeGivesEncodedInstruction : Prop :=
  ∀ i : Instr, i.wellFormed = true → ∀ bs : List Byte, encode i = some bs → ∀ rest : List Byte,
    decode (bs ++ rest) = .ok (i, rest)

/-- R143: the RX round trip. -/
def Obligations.RxFrameRoundTrip : Prop :=
  ∀ (c : Byte) (p rest : List Byte), p.length ≤ maxPayload → decode1 (rxFrame c p ++ rest) = (.frame c p, rest)

/-- R144: what the decoder makes of the block's own frames. -/
def Obligations.LoopbackByLengthBytes : Prop :=
  (∀ (c : Byte) (p rest : List Byte), p.length ≤ 255 →
    encodeTx .two c p = rxFrame c p ∧ decode1 (encodeTx .two c p ++ rest) = (.frame c p, rest)) ∧
  (∀ (c : Byte) (p rest : List Byte), 255 < p.length →
    (le16 ((encodeTx .two c p).getD 3 0#8) ((encodeTx .two c p).getD 4 0#8)).toNat = p.length % 256 ∧
    (decode1 (encodeTx .two c p ++ rest)).1 ≠ .frame c p) ∧
  (∀ (c : Byte) (p rest : List Byte), decode1 (encodeTx .one c p ++ rest) ≠ (.frame c p, rest))

/-- R287 read on its own: with one length byte no sent frame decodes as the same command and payload, whatever bytes follow
it. Expected to FAIL: 510 payload bytes 0x01 followed by one more byte 0x01 are a counterexample (NOTES.md). -/
def Obligations.OneLengthByteNeverSameFrame : Prop :=
  ∀ (c : Byte) (p rest : List Byte), (decode1 (encodeTx .one c p ++ rest)).1 ≠ .frame c p

/-- R146: a corrupted checksum or payload byte drops the frame, and the next frame is decoded; a corrupted length byte is
not covered. -/
def Obligations.CorruptedFrameIsDropped : Prop :=
  (∀ (c k : Byte) (p g : List Byte), p.length ≤ maxPayload → k ≠ checksum p →
    decode1 ((rxFrame c p).dropLast ++ [k] ++ g) = (.drop .checksum, g)) ∧
  (∀ (c b : Byte) (p g : List Byte) (i : Nat) (h : i < p.length), p.length ≤ maxPayload → b ≠ p[i] →
    decode1 ((rxFrame c p).set (5 + i) b ++ g) = (.drop .checksum, g)) ∧
  (∀ (c k c' : Byte) (p p' g : List Byte), p.length ≤ maxPayload → p'.length ≤ maxPayload → k ≠ checksum p →
    decode1 (decode1 ((rxFrame c p).dropLast ++ [k] ++ (rxFrame c' p' ++ g))).2 = (.frame c' p', g)) ∧
  (∃ (c b : Byte) (p g : List Byte), p.length ≤ maxPayload ∧ b ≠ lenLo p.length ∧
    decode1 ((rxFrame c p).set 3 b ++ g) ≠ (.drop .checksum, g))

/-- R145: a spurious sync byte is skipped and the frame after it is decoded; its command is unknown. -/
def Obligations.SpuriousSyncIsSkipped : Prop :=
  decode1 [0xAA#8, 0x01#8, 0xAA#8, 0xAA#8, 0x00#8, 0x00#8, 0x00#8, 0xFF#8]
    = (.drop .sync2, [0xAA#8, 0xAA#8, 0x00#8, 0x00#8, 0x00#8, 0xFF#8]) ∧
  decode1 [0xAA#8, 0xAA#8, 0x00#8, 0x00#8, 0x00#8, 0xFF#8] = (.frame 0x00#8 [], []) ∧ classify 0x00#8 = .unknown

/-- R147: one noise byte 0xAA directly before a valid frame loses the frame. -/
def Obligations.LoneSyncLosesFrame : Prop :=
  ∀ (c : Byte) (p g : List Byte), p.length ≤ maxPayload → (decode1 ([syncByte] ++ rxFrame c p ++ g)).1 ≠ .frame c p

/-- R90: the command map, and that the instruction of a command keeps the command and the payload. -/
def Obligations.CommandMapIsTotal : Prop :=
  (∀ c : Byte, classify c =
    if c.toNat = 1 then .timeSync else if c.toNat = 2 then .logDebug else if c.toNat = 3 then .logInfo
    else if c.toNat = 4 then .logWarn else if c.toNat = 5 then .logError else if c.toNat = 8 then .paramReq
    else if 16 ≤ c.toNat then .publish else .unknown) ∧
  (∀ (c : Byte) (p : List Byte), (instrOf c p).commandClass = some (classify c) ∧ (instrOf c p).frame = some (c, p))

/-- Frames written out byte by byte from the spec's vectors decode to the instructions they stand for (R81, R90). -/
def Obligations.WrittenFramesDecode : Prop :=
  decode [0xAA#8, 0xAA#8, 0x03#8, 0x05#8, 0x00#8, 0x68#8, 0x65#8, 0x6C#8, 0x6C#8, 0x6F#8, 0xEB#8]
    = .ok (.logInfo [0x68#8, 0x65#8, 0x6C#8, 0x6C#8, 0x6F#8], []) ∧
  decode [0xAA#8, 0xAA#8, 0x08#8, 0x01#8, 0x00#8, 0x58#8, 0xA7#8] = .ok (.paramReq [0x58#8], []) ∧
  decode [0xAA#8, 0xAA#8, 0x20#8, 0x03#8, 0x00#8, 0x01#8, 0x02#8, 0x03#8, 0xF9#8]
    = .ok (.publish203F 0#5 [0x01#8, 0x02#8, 0x03#8], []) ∧
  decode [0xAA#8, 0xAA#8, 0x07#8, 0x02#8, 0x00#8, 0x61#8, 0x62#8, 0x3C#8]
    = .ok (.unknown0607 1#1 [0x61#8, 0x62#8], []) ∧
  decode [0xAA#8, 0xAA#8, 0x01#8, 0x08#8, 0x00#8, 0x64#8, 0x00#8, 0x00#8, 0x00#8, 0x00#8, 0x00#8, 0x00#8, 0x00#8, 0x9B#8]
    = .ok (.timeSync [0x64#8, 0x00#8, 0x00#8, 0x00#8, 0x00#8, 0x00#8, 0x00#8, 0x00#8], [])

/-- R116: the encoder's corner cases, with one length byte and with two. -/
def Obligations.EncoderCornerCases : Prop :=
  ∀ (c : Byte) (p : List Byte),
    (encodeTx .one c [] = [0xAA#8, 0xAA#8, c, 0x00#8, 0xFF#8] ∧
      encodeTx .two c [] = [0xAA#8, 0xAA#8, c, 0x00#8, 0x00#8, 0xFF#8]) ∧
    (p.length = 256 → (encodeTx .one c p).getD 3 0xFF#8 = 0x00#8 ∧ ((encodeTx .one c p).drop 4).take 256 = p) ∧
    (∀ t, (encodeTx t c p).getD 2 0#8 = c) ∧
    (((encodeTx .one c p).drop 4).take p.length = p ∧ ((encodeTx .two c p).drop 5).take p.length = p) ∧
    (∀ t, (encodeTx t c p).getLast? = some (checksum p))

/-- R210: the text check accepts exactly the UTF-8 encodings of texts. The definition of well-formed is general knowledge
(RFC 3629), as the spec marks it: the model's choice of log 17. -/
def Obligations.TextCheckIsUtf8 : Prop :=
  ∀ p : List Byte, utf8 p = true ↔ ∃ cs : List Char, p = textBytes cs

/-! ### The machine as a whole -/

/-- A step runs the decoded instruction: RX in `R_DISPATCH` runs the instruction its frame decodes to (R137), and an input
is run as it is (R96, R97). `takeMove` is what step adds around exec: the move is taken off the schedule. -/
def Obligations.StepRunsDecodedInstruction : Prop :=
  (∀ (s : State) (i : Instr), nextMove s = .rx → s.rxState = .dispatch →
    decode (rxFrame s.rxCmd (rxPayload s)) = .ok (i, []) → step s = exec i (takeMove s)) ∧
  (∀ (s : State) (i : Instr), nextMove s = .input i → i.isPort = true → step s = exec i (takeMove s)) ∧
  (∀ s : State, takeMove s = { s with schedule := s.schedule.tail, moved := s.moved + 1 })

/-- A placed word's frame is what the very next step runs, whatever the state (log 14, the model's choice; R137). -/
def Obligations.PlacedWordRunsNext : Prop :=
  ∀ (s : State) (nbits w : Nat) (i : Instr), s.rxBuf.wf = true → decodeTableWord nbits w = some i →
    step (s.withFetchWord nbits w) = exec i (takeMove (s.withFetchWord nbits w)) ∧
    rxAtDispatch (takeMove (s.withFetchWord nbits w)) = true

/-- R270: the registers the spec gives a value after construction, for every choice of the parameters and of `rx_fifo`. -/
def Obligations.ConstructionState : Prop :=
  ∀ (cfg : Params) (fifo : List Byte),
    (State.construct cfg fifo).cfg = cfg ∧ (State.construct cfg fifo).rxFifo = fifo ∧
    (State.construct cfg fifo).started = false ∧ (State.construct cfg fifo).alive = false ∧
    (State.construct cfg fifo).stopNotified = false ∧ (State.construct cfg fifo).timeSynced = false ∧
    (State.construct cfg fifo).readCount = 0 ∧ (State.construct cfg fifo).paramIssued = 0 ∧
    (State.construct cfg fifo).ufault = none ∧ (State.construct cfg fifo).rxState = .sync1 ∧
    (State.construct cfg fifo).ssPhase = .none ∧ (State.construct cfg fifo).txState = .idle ∧
    (State.construct cfg fifo).queue = [] ∧ (State.construct cfg fifo).txWire = [] ∧
    (State.construct cfg fifo).events = []

/-- The invariants hold after construction (R270), which gives `rx_buf` no value: that it starts in its canonical form is the
model's choice of log 5. -/
def Obligations.ConstructionHasInvariants : Prop :=
  ∀ (cfg : Params) (fifo : List Byte), BlockInv (State.construct cfg fifo) ∧ WireInv (State.construct cfg fifo)

/-- Every step keeps the block's invariant: flags, modes, positions, the queue of encoder outputs and the trace's counts (R22
to R35, R63, R117, R187). Its clause on the canonical form of `rx_buf` is the model's choice of log 5. -/
def Obligations.StepKeepsBlockInvariant : Prop :=
  ∀ s t : State, BlockInv s → step s = .next t → BlockInv t

/-- Every step keeps what `tx_wire` is made of: under `RETRY_REMAINDER` the bytes of each frame are contiguous (R71). -/
def Obligations.StepKeepsWireInvariant : Prop :=
  ∀ s t : State, BlockInv s → WireInv s → step s = .next t → WireInv t

/-- R187: in every run from a state where the count is right, there is at most one `STOPPED`, and exactly one once `Stop()`
has run. -/
def Obligations.StoppedAtMostOnce : Prop :=
  (∀ s : State, (stopBlock s).stopNotified = true) ∧
  (∀ (n : Nat) (s t : State), stoppedCount s.events = (if s.stopNotified then 1 else 0) → core.run n s = .next t →
    stoppedCount t.events ≤ 1 ∧ (t.stopNotified = true → stoppedCount t.events = 1) ∧
    (s.stopNotified = true → t.stopNotified = true))

/-- What no step undoes: the parameters (R5), `started` (R22), the end of `alive` (R23), `stop_notified` (R24),
`time_synced` (R25), the counters (R26, R27), `ufault` (R28), `tx_wire` (R43) and the trace (R44). -/
def Obligations.NothingIsUndone : Prop :=
  ∀ s t : State, step s = .next t →
    t.cfg = s.cfg ∧ (s.started = true → t.started = true) ∧ (s.stopNotified = true → t.stopNotified = true) ∧
    (s.stopNotified = true → s.alive = false → t.alive = false) ∧ (s.timeSynced = true → t.timeSynced = true) ∧
    s.readCount ≤ t.readCount ∧ s.paramIssued ≤ t.paramIssued ∧ (∀ u, s.ufault = some u → t.ufault = some u) ∧
    s.txWire <+: t.txWire ∧ s.events <+: t.events

/-- No step depends on a duration (R10, R295): other durations give the same step. -/
def Obligations.DurationsAreNeverRead : Prop :=
  ∀ (s : State) (d : Durations), step (s.withDurations d) = mapNext (State.withDurations d) (step s)

/-- R164 and R178: in `R_HALT` and `T_HALT` the loop has no step, and no step of the machine leaves the halt. That a move
without a step answers a next state in which nothing changed is the model's choice of log 8. -/
def Obligations.HaltsAreTerminal : Prop :=
  (∀ s : State, s.ufault = none → s.rxState = .halt → runMove .rx s = .next s ∧ runMove .rxExit s = .next s) ∧
  (∀ s : State, s.ufault = none → s.txState = .halt → runMove .tx s = .next s ∧ runMove .txExit s = .next s) ∧
  (∀ s t : State, BlockInv s → step s = .next t →
    (s.rxState = .halt → t.rxState = .halt) ∧ (s.txState = .halt → t.txState = .halt))

/-- In an ended run the block has no step that changes anything (R275). That a move without a step answers a next state in
which nothing changed is the model's choice of log 8. -/
def Obligations.EndedRunHasNoBlockStep : Prop :=
  ∀ s : State, s.ended = true →
    runMove .rx s = .next s ∧ runMove .rxExit s = .next s ∧ runMove .tx s = .next s ∧ runMove .txExit s = .next s ∧
    exec .xptTimeout s = .next s ∧ exec .xptIoerr s = .next s ∧ ∀ a, exec (.xptWriteAnswer a) s = .next s

/-- After Unspecified behaviour (R14) every move of RX and TX, every frame and every input but a status read and a byte
arrival is the model's fault (log 9, the model's form of R14's "treats it as a fault"). -/
def Obligations.UnspecifiedIsAFault : Prop :=
  ∀ (s : State) (u : UCode), s.ufault = some u →
    (∀ i : Instr, i ≠ .statusRead → (∀ b, i ≠ .xptByte b) → exec i s = .fault (.unspecified u)) ∧
    (∀ m : Move, (∀ i, m ≠ .input i) → runMove m s = .fault (.unspecified u))

/-- R247: each situation sets its code, and nothing else but the event and the answer that R182 gives a failed reset. The
`U_TEXT` clauses rest on the text check `utf8`, RFC 3629 from general knowledge, the model's presumption of log 17. -/
def Obligations.UnspecifiedCodesAreSet : Prop :=
  (∀ (s : State) (p : List Byte), rxAtDispatch s = true → p.length ≠ 8 →
    exec (.timeSync p) s = .next { s with ufault := some .syncLen }) ∧
  (∀ (s : State) (p : List Byte), rxAtDispatch s = true → utf8 p = false →
    exec (.logDebug p) s = .next { s with ufault := some .text } ∧
    exec (.logInfo p) s = .next { s with ufault := some .text } ∧
    exec (.logWarn p) s = .next { s with ufault := some .text } ∧
    exec (.logError p) s = .next { s with ufault := some .text } ∧
    exec (.paramReq p) s = .next { s with ufault := some .text }) ∧
  (∀ s : State, s.ufault = none → s.ssPhase = .none → s.started = true ∨ s.stopNotified = true →
    exec .start s = .next { s with ufault := some .start }) ∧
  (∀ s : State, s.ufault = none → s.ssPhase = .none → s.started = false → s.stopNotified = false → nextReset s = .fail →
    exec .start s
      = .next { s with events := s.events ++ [.xptReset], ufault := some .reset, draws := (useReset s).draws }) ∧
  (∀ s : State, s.ufault = none → s.ssPhase = .none → s.cfg.mode = .threaded →
    exec .step s = .next { s with ufault := some .mode })

/-- While a `step` call is in progress HOST has no step other than a status read (R184); a timeout cannot happen in
`R_SYNC1` or while a byte is pending (R138, R141); a parameter result needs an issued request (R222). A step that is not
enabled changes nothing: the model's choice of log 8. -/
def Obligations.NotEnabledChangesNothing : Prop :=
  (∀ (s : State) (c : Byte) (p : List Byte), s.ufault = none → s.ssPhase ≠ .none →
    exec .start s = .next s ∧ exec .stop s = .next s ∧ exec (.sendCommand c p) s = .next s ∧ exec .step s = .next s) ∧
  (∀ s : State, s.ufault = none → s.rxState = .sync1 ∨ s.rxFifo ≠ [] → exec .xptTimeout s = .next s) ∧
  (∀ (s : State) (k : Nat) (v : List Word), s.ufault = none → s.paramIssued ≤ k → exec (.delParamResult k v) s = .next s)

/-- What the peer can reach (R253): a frame changes no parameter, no `started`, no counter of bytes, none of TX's
registers, nothing of the input stream; only `TIME_SYNC` enqueues or sets `time_synced`, only `PARAM_REQ` counts a request,
and a frame can only clear `alive`. -/
def Obligations.FramesReachOnlyTheirEffects : Prop :=
  ∀ (i : Instr) (s t : State), i.isPort = false → exec i s = .next t →
    t.cfg = s.cfg ∧ t.started = s.started ∧ t.readCount = s.readCount ∧ t.txState = s.txState ∧ t.txCur = s.txCur ∧
    t.txOff = s.txOff ∧ t.txWire = s.txWire ∧ t.rxFifo = s.rxFifo ∧ t.rxCmd = s.rxCmd ∧ t.rxLen = s.rxLen ∧
    t.rxIdx = s.rxIdx ∧ t.rxBuf = s.rxBuf ∧ t.hostStatus = s.hostStatus ∧ t.schedule = s.schedule ∧ t.moved = s.moved ∧
    (t.alive = true → s.alive = true) ∧
    (i.commandClass ≠ some .timeSync → t.queue = s.queue ∧ t.timeSynced = s.timeSynced) ∧
    (i.commandClass ≠ some .paramReq → t.paramIssued = s.paramIssued)

/-- RX's and TX's registers are private (R260): TX's steps leave RX's registers and the input stream alone, RX's steps leave
TX's registers and the wire alone. -/
def Obligations.LoopRegistersArePrivate : Prop :=
  (∀ (m : Move) (s t : State), m = .tx ∨ m = .txExit ∨ (∃ a, m = .input (.xptWriteAnswer a)) → runMove m s = .next t →
    t.rxState = s.rxState ∧ t.rxCmd = s.rxCmd ∧ t.rxLen = s.rxLen ∧ t.rxIdx = s.rxIdx ∧ t.rxBuf = s.rxBuf ∧
    t.rxFifo = s.rxFifo ∧ t.readCount = s.readCount ∧ t.timeSynced = s.timeSynced ∧ t.paramIssued = s.paramIssued) ∧
  (∀ (m : Move) (s t : State),
    m = .rx ∨ m = .rxExit ∨ m = .input .xptTimeout ∨ m = .input .xptIoerr ∨ (∃ a, m = .input (.delSystimeAnswer a)) →
    runMove m s = .next t →
    t.txState = s.txState ∧ t.txCur = s.txCur ∧ t.txOff = s.txOff ∧ t.txWire = s.txWire)

/-! ### The frames -/

/-- R230: `UNKNOWN_00`, `UNKNOWN_06_07`, `UNKNOWN_09`, `UNKNOWN_0A_0B` and `UNKNOWN_0C_0F` make one diagnostic and end the
attempt; nothing else changes. -/
def Obligations.UnknownCommandResult : Prop :=
  ∀ (i : Instr) (c : Byte) (p : List Byte) (s : State), i.frame = some (c, p) → i.commandClass = some .unknown →
    rxAtDispatch s = true →
    exec i s = .next { s with
      events := s.events ++ [.diag (.unknownCmd c p.length)], rxState := .sync1, ssPhase := phaseAfterAttempt s }

/-- R225: `PUBLISH_10_1F`, `PUBLISH_20_3F`, `PUBLISH_40_7F` and `PUBLISH_80_FF` hand command and payload to the Delegate as
they are; nothing else changes. A failing Delegate is R200's exception. -/
def Obligations.PublishResult : Prop :=
  ∀ (i : Instr) (c : Byte) (p : List Byte) (s : State), i.frame = some (c, p) → i.commandClass = some .publish →
    rxAtDispatch s = true →
    (nextCall s = .ok → exec i s = .next (afterCall (.publish c p) (useCall s).draws s)) ∧
    (nextCall s = .error → exec i s = .next (afterFailedCall (.publish c p) (useCall s).draws s))

/-- R210 to R214: `LOG_DEBUG`, `LOG_INFO`, `LOG_WARN` and `LOG_ERROR` hand well-formed text to the Delegate at the command's
level; nothing else changes. A failing Delegate is R200's exception; other text is `U_TEXT` (UnspecifiedCodesAreSet). -/
def Obligations.LogResult : Prop :=
  ∀ (i : Instr) (l : LogLevel) (p : List Byte) (s : State),
    (i, l) ∈ [(Instr.logDebug p, LogLevel.debug), (.logInfo p, .info), (.logWarn p, .warn), (.logError p, .error)] →
    rxAtDispatch s = true → utf8 p = true →
    (nextCall s = .ok → exec i s = .next (afterCall (.log l p) (useCall s).draws s)) ∧
    (nextCall s = .error → exec i s = .next (afterFailedCall (.log l p) (useCall s).draws s))

/-- R220: `PARAM_REQ` counts the request and hands the name to the Delegate with the number of requests before it; it
enqueues nothing. A failing Delegate is R200's exception. -/
def Obligations.ParamRequestResult : Prop :=
  ∀ (p : List Byte) (s : State), rxAtDispatch s = true → utf8 p = true →
    (nextCall s = .ok → exec (.paramReq p) s
      = .next (afterCall (.getParam s.paramIssued p) (useCall s).draws { s with paramIssued := s.paramIssued + 1 })) ∧
    (nextCall s = .error → exec (.paramReq p) s
      = .next (afterFailedCall (.getParam s.paramIssued p) (useCall s).draws { s with paramIssued := s.paramIssued + 1 }))

/-- R201, R206: `TIME_SYNC` with an eight-byte payload enqueues the reply, sets `time_synced` and records the exact
offset; nothing else changes. If `SYSTIME` fails there is no reply and `time_synced` keeps its value. Any other payload
length is `U_SYNC_LEN` before any effect. -/
def Obligations.TimeSyncResult : Prop :=
  (∀ (p : List Byte) (s : State), rxAtDispatch s = true → p.length ≠ 8 →
    exec (.timeSync p) s = .next { s with ufault := some .syncLen }) ∧
  ∀ (b0 b1 b2 b3 b4 b5 b6 b7 : Byte) (s : State), rxAtDispatch s = true →
    (∀ hs hn : Word, nextSysTime s = .time hs hn → ∃ d : Rat,
      d = ((wordValue s.cfg.timeSigned hs - wordValue s.cfg.timeSigned (le32 b0 b1 b2 b3) : Int) : Rat) * 1000
          + ((wordValue s.cfg.timeSigned hn - wordValue s.cfg.timeSigned (le32 b4 b5 b6 b7) : Int) : Rat) / 10 ^ 6 ∧
      exec (.timeSync [b0, b1, b2, b3, b4, b5, b6, b7]) s = .next { s with
        events := s.events ++ [.del .sysTime, .diag (.timeOffset d)]
        queue := s.queue ++ [encodeTx s.cfg.txLenBytes 0x01#8 (le32bytes hs ++ le32bytes hn)]
        timeSynced := true, rxState := .sync1, ssPhase := phaseAfterAttempt s, draws := (useSysTime s).draws }) ∧
    (nextSysTime s = .error → exec (.timeSync [b0, b1, b2, b3, b4, b5, b6, b7]) s
      = .next (afterFailedCall .sysTime (useSysTime s).draws s))

/-- R203: DEL's answer to `SYSTIME` takes the dispatch step of the pending time-sync frame with that one sample, for the
reply and for the offset; the block checks neither word. That the answer is this step is log 10, the model's reading. -/
def Obligations.SysTimeAnswerResult : Prop :=
  ∀ s : State, sysTimeCalled s = true →
    (∀ hs hn : Word, exec (.delSystimeAnswer (.time hs hn)) s = .next { s with
      events := s.events ++ [.del .sysTime,
        .diag (.timeOffset (diffMs s.cfg.timeSigned hs hn (wordAt (rxPayload s) 0) (wordAt (rxPayload s) 4)))]
      queue := s.queue ++ [encodeTx s.cfg.txLenBytes 0x01#8 (le32bytes hs ++ le32bytes hn)]
      timeSynced := true, rxState := .sync1, ssPhase := phaseAfterAttempt s }) ∧
    (exec (.delSystimeAnswer .error) s = .next (afterFailedCall .sysTime s.draws s))

/-- R222: a parameter result enqueues its reply under command 0x08, each value four little-endian bytes; nothing else
changes, and the same request can complete again. -/
def Obligations.ParamResultReply : Prop :=
  ∀ (k : Nat) (values : List Word) (s : State), s.ufault = none → k < s.paramIssued →
    exec (.delParamResult k values) s
      = .next { s with queue := s.queue ++ [encodeTx s.cfg.txLenBytes 0x08#8 (values.flatMap le32bytes)] }

/-! ### The HOST operations -/

/-- R182, R271: `start` on a block that was never started or stopped, with the reset answered OK, activates it and leaves
`queue`, `time_synced`, `read_count` and `param_issued` alone. A failed reset is `U_RESET` after the `XPT_RESET` event;
`start` of a started or stopped block is `U_START` before any effect. -/
def Obligations.StartResult : Prop :=
  ∀ s : State, s.ufault = none → s.ssPhase = .none →
    (s.started = false → s.stopNotified = false → nextReset s = .ok → exec .start s = .next { s with
      events := s.events ++ [.xptReset], rxFifo := [], started := true, alive := true, rxState := .sync1,
      txState := .idle, ssPhase := .none, draws := (useReset s).draws }) ∧
    (s.started = false → s.stopNotified = false → nextReset s = .fail → exec .start s = .next { s with
      events := s.events ++ [.xptReset], ufault := some .reset, draws := (useReset s).draws }) ∧
    (s.started = true ∨ s.stopNotified = true → exec .start s = .next { s with ufault := some .start })

/-- R180, R181: `stop` clears `alive` and notifies once; it touches neither loop's state register. -/
def Obligations.StopResult : Prop :=
  ∀ s : State, s.ufault = none → s.ssPhase = .none →
    exec .stop s = .next { s with alive := false, stopNotified := true, events := s.events ++ stopEvents s } ∧
    (s.stopNotified = true → exec .stop s = .next { s with alive := false })

/-- R183: `send_command` enqueues the encoded frame in every lifecycle state; nothing else changes. -/
def Obligations.SendCommandResult : Prop :=
  ∀ (c : Byte) (p : List Byte) (s : State), s.ufault = none → s.ssPhase = .none →
    exec (.sendCommand c p) s = .next { s with queue := s.queue ++ [encodeTx s.cfg.txLenBytes c p] }

/-- R184: `step` starts a call when the block is started and alive, and does nothing otherwise. In THREADED mode it is
`U_MODE`. While a call is in progress `step` is not enabled (NotEnabledChangesNothing). -/
def Obligations.SingleStepCallResult : Prop :=
  ∀ s : State, s.ufault = none → s.ssPhase = .none →
    (s.cfg.mode = .singleStep → s.started = true → s.alive = true → exec .step s = .next { s with ssPhase := .decode }) ∧
    (s.cfg.mode = .singleStep → s.started = false ∨ s.alive = false → exec .step s = .next s) ∧
    (s.cfg.mode = .threaded → exec .step s = .next { s with ufault := some .mode })

/-- R45: a status read is possible in every state and answers the five outputs; the block does not change. That the answer
is latched in `hostStatus`, a field of the model's own, is the model's choice of log 12. -/
def Obligations.StatusReadResult : Prop :=
  ∀ s : State, exec .statusRead s
    = .next { s with hostStatus := some ⟨s.alive, s.timeSynced, s.readCount, s.started, s.ufault⟩ }

/-! ### The transport -/

/-- A byte arrives in every state, at the tail of `rx_fifo`; nothing else changes (R257). -/
def Obligations.ByteArrives : Prop :=
  ∀ (b : Byte) (s : State), exec (.xptByte b) s = .next { s with rxFifo := s.rxFifo ++ [b] }

/-- R138, R162, R185: a read timeout in each waiting state. THREADED logs it with the state and the position, stops and
halts; SINGLE_STEP swallows it. Consumed bytes stay consumed. -/
def Obligations.ReadTimeoutResult : Prop :=
  ∀ (s : State) (i : Nat), rxMayStep s = true → s.rxFifo = [] →
    (s.rxState, i) ∈ [(RxState.sync2, 0), (.cmd, 0), (.len, s.rxIdx.toNat), (.payload, s.rxIdx.toNat), (.csum, 0)] →
    (s.cfg.mode = .threaded → exec .xptTimeout s = .next { s with
      events := s.events ++ [.diag (.rxTimeout s.rxState i)] ++ stopEvents s
      alive := false, stopNotified := true, rxState := .halt }) ∧
    (s.cfg.mode = .singleStep → exec .xptTimeout s = .next { s with rxState := .sync1, ssPhase := .write })

/-- R139, R162, R185: a transport I/O error in every state but `R_DISPATCH` and `R_HALT`. It has no diagnostic. -/
def Obligations.IoErrorResult : Prop :=
  ∀ s : State, rxMayStep s = true → s.rxState ≠ .dispatch →
    (s.cfg.mode = .threaded → exec .xptIoerr s = .next { s with
      events := s.events ++ stopEvents s, alive := false, stopNotified := true, rxState := .halt }) ∧
    (s.cfg.mode = .singleStep → exec .xptIoerr s = .next { s with rxState := .sync1, ssPhase := .write })

/-- R173, R258: `ACCEPT(k)` puts the next `k` bytes on the wire; a frame written in full ends the write cycle. -/
def Obligations.WriteAcceptedResult : Prop :=
  ∀ (k : Nat) (s : State), txMayStep s = true → s.txState = .busy → s.txOff < s.txCur.length →
    k ≤ s.txCur.length - s.txOff →
    (s.txOff + k < s.txCur.length → exec (.xptWriteAnswer (.accept k)) s = .next { s with
      txWire := s.txWire ++ (s.txCur.drop s.txOff).take k, txOff := s.txOff + k }) ∧
    (s.txOff + k = s.txCur.length → exec (.xptWriteAnswer (.accept k)) s = .next { s with
      txWire := s.txWire ++ s.txCur.drop s.txOff, txOff := s.txOff + k, txState := .idle,
      ssPhase := if s.cfg.mode = .singleStep then .none else s.ssPhase })

/-- R174: a write timeout in THREADED mode is logged and does not stop the block; the accepted prefix stays on the wire.
Under `DROP_REMAINDER` the remainder is discarded: `tx_cur` and `tx_off` then hold some value, of which nothing is said. -/
def Obligations.WriteTimeoutThreadedResult : Prop :=
  ∀ (k : Nat) (s : State), s.cfg.mode = .threaded → txMayStep s = true → s.txState = .busy →
    k < s.txCur.length - s.txOff →
    (s.cfg.wrTimeoutPolicy = .retryRemainder → exec (.xptWriteAnswer (.timeout k)) s = .next { s with
      txWire := s.txWire ++ (s.txCur.drop s.txOff).take k, txOff := s.txOff + k, txState := .pause,
      events := s.events ++ [.diag (.txTimeout (s.txOff + k) s.txCur.length)] }) ∧
    (s.cfg.wrTimeoutPolicy = .dropRemainder → ∃ (cur : List Byte) (off : Nat) (d : Draws),
      exec (.xptWriteAnswer (.timeout k)) s = .next { s with
        txWire := s.txWire ++ (s.txCur.drop s.txOff).take k, txCur := cur, txOff := off, txState := .pause, draws := d,
        events := s.events ++ [.diag (.txTimeout (s.txOff + k) s.txCur.length)] })

/-- R176: a write fault in THREADED mode is logged, stops the block and halts TX. -/
def Obligations.WriteFaultThreadedResult : Prop :=
  ∀ (k : Nat) (s : State), s.cfg.mode = .threaded → txMayStep s = true → s.txState = .busy →
    k < s.txCur.length - s.txOff →
    exec (.xptWriteAnswer (.fault k)) s = .next { s with
      txWire := s.txWire ++ (s.txCur.drop s.txOff).take k, txOff := s.txOff + k, txState := .halt, alive := false,
      stopNotified := true,
      events := s.events ++ [.diag (.txFault (s.txOff + k) s.txCur.length)] ++ stopEvents s }

/-- R186: the single-step write cycle. An empty queue and a frame written in full return the call; a fault stops the block
with TX idle; a timeout continues or stops as the draw says. That `tx_cur` and `tx_off` keep the frame and the offset after
a fault or a timeout, under `DROP_REMAINDER` too, is the model's inference of log 20. -/
def Obligations.SingleStepWriteCycle : Prop :=
  (∀ s : State, s.cfg.mode = .singleStep → txMayStep s = true → s.txState = .idle → s.queue = [] →
    runMove .tx s = .next { s with ssPhase := .none }) ∧
  (∀ (k : Nat) (s : State), s.cfg.mode = .singleStep → txMayStep s = true → s.txState = .busy →
    s.txOff < s.txCur.length →
    (k = s.txCur.length - s.txOff → exec (.xptWriteAnswer (.accept k)) s = .next { s with
      txWire := s.txWire ++ s.txCur.drop s.txOff, txOff := s.txCur.length, txState := .idle, ssPhase := .none }) ∧
    (k < s.txCur.length - s.txOff →
      exec (.xptWriteAnswer (.fault k)) s = .next { s with
        txWire := s.txWire ++ (s.txCur.drop s.txOff).take k, txOff := s.txOff + k, txState := .idle, ssPhase := .none,
        alive := false, stopNotified := true,
        events := s.events ++ [.diag (.txFault (s.txOff + k) s.txCur.length)] ++ stopEvents s } ∧
      (nextTimeout s = .continue → exec (.xptWriteAnswer (.timeout k)) s = .next { s with
        txWire := s.txWire ++ (s.txCur.drop s.txOff).take k, txOff := s.txOff + k, ssPhase := .none,
        txState := if s.cfg.wrTimeoutPolicy = .retryRemainder then .busy else .idle,
        draws := (useTimeout s).draws,
        events := s.events ++ [.diag (.txTimeout (s.txOff + k) s.txCur.length)] }) ∧
      (nextTimeout s = .stop → exec (.xptWriteAnswer (.timeout k)) s = .next { s with
        txWire := s.txWire ++ (s.txCur.drop s.txOff).take k, txOff := s.txOff + k, txState := .idle, ssPhase := .none,
        alive := false, stopNotified := true, draws := (useTimeout s).draws,
        events := s.events ++ [.diag (.txTimeout (s.txOff + k) s.txCur.length)] ++ stopEvents s })))

/-! ### The loops -/

/-- R120 to R124: the poll and the two preamble bytes. Every byte taken is gone from `rx_fifo`, and a byte that is not the
marker is dropped with one diagnostic. -/
def Obligations.PreambleSteps : Prop :=
  ∀ s : State, rxMayStep s = true → (s.cfg.mode = .threaded → s.rxState = .sync1 → s.alive = true) →
    (s.rxState = .sync1 → s.rxFifo = [] → runMove .rx s = .next { s with ssPhase := phaseAfterAttempt s }) ∧
    (∀ (b : Byte) (rest : List Byte), s.rxFifo = b :: rest →
      (s.rxState = .sync1 → b = 0xAA#8 → runMove .rx s = .next { s with rxFifo := rest, rxState := .sync2 }) ∧
      (s.rxState = .sync1 → b ≠ 0xAA#8 → runMove .rx s = .next { s with
        rxFifo := rest, rxState := .sync1, ssPhase := phaseAfterAttempt s,
        events := s.events ++ [.diag (.dropSync1 b)] }) ∧
      (s.rxState = .sync2 → b = 0xAA#8 → runMove .rx s = .next { s with rxFifo := rest, rxState := .cmd }) ∧
      (s.rxState = .sync2 → b ≠ 0xAA#8 → runMove .rx s = .next { s with
        rxFifo := rest, rxState := .sync1, ssPhase := phaseAfterAttempt s,
        events := s.events ++ [.diag (.dropSync2 b)] }))

/-- R126, R128, R130, R131: the command and the two length bytes. A zero length goes on to the checksum at once. -/
def Obligations.HeaderSteps : Prop :=
  ∀ (s : State) (b : Byte) (rest : List Byte), rxMayStep s = true → s.rxFifo = b :: rest →
    (s.rxState = .cmd → runMove .rx s = .next { s with rxFifo := rest, rxCmd := b, rxIdx := 0#16, rxState := .len }) ∧
    (s.rxState = .len → s.rxIdx = 0#16 → ∃ n : BitVec 16,
      n.toNat = s.rxLen.toNat / 256 * 256 + b.toNat ∧
      runMove .rx s = .next { s with rxFifo := rest, rxLen := n, rxIdx := 1#16 }) ∧
    (s.rxState = .len → s.rxIdx = 1#16 → ∃ n : BitVec 16,
      n.toNat = b.toNat * 256 + s.rxLen.toNat % 256 ∧
      runMove .rx s = .next { s with
        rxFifo := rest, rxLen := n, rxIdx := 0#16, rxState := if n = 0#16 then .csum else .payload })

/-- R132, R133: one payload byte is stored at `rx_idx` and no other byte of `rx_buf` changes; the last one ends the step and
counts the payload under `ON_PAYLOAD`. The canonical form of `rx_buf` (`wf`, as a premise and kept) is the model's choice of
log 5. -/
def Obligations.PayloadStep : Prop :=
  ∀ (s : State) (b : Byte) (rest : List Byte), rxMayStep s = true → s.rxState = .payload → s.rxIdx < s.rxLen →
    s.rxFifo = b :: rest → s.rxBuf.wf = true → ∃ m : Memory,
      memRead m s.rxIdx.toNat = b ∧ (∀ a, a ≠ s.rxIdx.toNat → memRead m a = memRead s.rxBuf a) ∧ m.wf = true ∧
      (s.rxIdx + 1#16 ≠ s.rxLen →
        runMove .rx s = .next { s with rxFifo := rest, rxBuf := m, rxIdx := s.rxIdx + 1#16 }) ∧
      (s.rxIdx + 1#16 = s.rxLen →
        runMove .rx s = .next { s with
          rxFifo := rest, rxBuf := m, rxIdx := s.rxIdx + 1#16, rxState := .csum,
          readCount := if s.cfg.readCountPoint = .onPayload then s.readCount + s.rxLen.toNat else s.readCount })

/-- R134, R135, R136: a matching checksum accepts the frame and counts it under `ON_ACCEPT`; a mismatch drops it with one
diagnostic and dispatches nothing. -/
def Obligations.ChecksumStep : Prop :=
  ∀ (s : State) (k : Byte) (rest : List Byte), rxMayStep s = true → s.rxState = .csum → s.rxFifo = k :: rest →
    (k = checksum (rxPayload s) → runMove .rx s = .next { s with
      rxFifo := rest, rxState := .dispatch,
      readCount := if s.cfg.readCountPoint = .onAccept then s.readCount + s.rxLen.toNat else s.readCount }) ∧
    (k ≠ checksum (rxPayload s) → runMove .rx s = .next { s with
      rxFifo := rest, rxState := .sync1, ssPhase := phaseAfterAttempt s,
      events := s.events ++ [.diag (.dropChecksum s.rxCmd s.rxLen.toNat k (checksum (rxPayload s)))] })

/-- R161, R163, R171, R177: where a THREADED loop exits after a stop. RX exits at its iteration boundary, and may exit at
every other read-step boundary, but not while it waits; TX exits when idle, and may exit between partial writes. That a move
without a step answers a next state in which nothing changed is the model's choice of log 8, and that a read state at its
first byte with nothing pending is a wait is its inference of log 22. -/
def Obligations.LoopsExitAfterStop : Prop :=
  ∀ s : State, s.cfg.mode = .threaded → s.ufault = none → s.started = true → s.alive = false →
    (s.rxState = .sync1 → runMove .rx s = .next { s with
      events := s.events ++ stopEvents s, stopNotified := true, rxState := .halt }) ∧
    (s.rxState = .dispatch ∨ s.rxFifo ≠ [] ∧ (s.rxState ∈ [RxState.sync2, .cmd, .csum] ∨
        s.rxState ∈ [RxState.len, .payload] ∧ s.rxIdx = 0#16) →
      runMove .rxExit s = .next { s with
        events := s.events ++ stopEvents s, stopNotified := true, rxState := .halt }) ∧
    (s.rxState ∈ [RxState.len, .payload] → s.rxIdx ≠ 0#16 → runMove .rxExit s = .next s) ∧
    (rxWaiting s = true → runMove .rxExit s = .next s) ∧
    (s.txState = .idle → runMove .tx s = .next { s with
      events := s.events ++ stopEvents s, stopNotified := true, txState := .halt }) ∧
    (s.txState = .busy → runMove .txExit s = .next { s with
      events := s.events ++ stopEvents s, stopNotified := true, txState := .halt })

/-- R288: a wait of RX, after a stop too, goes on until a byte, a timeout or an I/O error ends it. Whatever other move is
taken, RX stands where it stood, with nothing pending; an arriving byte leaves RX where it stood with that byte pending.
That a read state with nothing pending is a wait at its first byte too is the model's inference of log 22. -/
def Obligations.WaitGoesOnUntilInput : Prop :=
  ∀ (m : Move) (s t : State), BlockInv s → rxWaiting s = true → runMove m s = .next t →
    m ≠ .input .xptTimeout → m ≠ .input .xptIoerr →
    t.rxState = s.rxState ∧ t.rxCmd = s.rxCmd ∧ t.rxLen = s.rxLen ∧ t.rxIdx = s.rxIdx ∧ t.rxBuf = s.rxBuf ∧
    ((∀ b, m ≠ .input (.xptByte b)) → t.rxFifo = []) ∧ (∀ b, m = .input (.xptByte b) → t.rxFifo = [b])

/-- A step of the machine is the move its schedule names: taking a move off the schedule before a move or after it is the
same, so no move depends on it, and a run of `step` is a run under the schedule of the moves it takes (R15; the model's
forms of a schedule, logs 1 and 23). -/
def Obligations.ScheduleIsNotRead : Prop :=
  (∀ (m : Move) (s : State), runMove m (takeMove s) = mapNext takeMove (runMove m s)) ∧
  ∀ s : State, step s = mapNext takeMove (runMove (nextMove s) s)

/-- R188, with R15's weak fairness of RX and TX: in every fair run of a started THREADED block from a state after `Stop()`,
under R188's two premises and with no Unspecified behaviour (R14), both loops halt. Fairness over the model's moves is log 23. -/
def Obligations.BothLoopsHaltAfterStop : Prop :=
  ∀ (σ : Nat → Move) (r : Nat → State), IsRun σ r → BlockInv (r 0) → (r 0).cfg.mode = .threaded →
    (r 0).started = true → (r 0).stopNotified = true → (∀ n, (r n).ufault = none) →
    Fair σ r → WaitsEnd r → WritesProgress σ r →
    ∃ n, (r n).rxState = .halt ∧ (r n).txState = .halt

/-- R172, R175: TX takes the head of the queue, one frame a cycle; an empty queue ends the write cycle, which returns a
single-step call; and TX leaves its pause by the policy. -/
def Obligations.WriterCycleSteps : Prop :=
  (∀ (s : State) (f : List Byte) (fs : List (List Byte)), txMayStep s = true →
    s.alive = true ∨ s.cfg.mode = .singleStep → s.txState = .idle → s.queue = f :: fs →
    runMove .tx s = .next { s with queue := fs, txCur := f, txOff := 0, txState := .busy }) ∧
  (∀ s : State, txMayStep s = true → s.alive = true ∨ s.cfg.mode = .singleStep → s.txState = .idle → s.queue = [] →
    runMove .tx s = .next { s with ssPhase := if s.cfg.mode = .singleStep then .none else s.ssPhase }) ∧
  (∀ s : State, s.cfg.mode = .threaded → txMayStep s = true → s.txState = .pause →
    (s.alive = false → runMove .tx s = .next { s with
      events := s.events ++ stopEvents s, stopNotified := true, txState := .halt }) ∧
    (s.alive = true → runMove .tx s = .next { s with
      txState := if s.cfg.wrTimeoutPolicy = .retryRemainder then .busy else .idle }))

/-- R142: the state machine of the decoder implements `decode1`. From `R_SYNC1` with the bytes `s.rxFifo` pending, RX's own
steps alone reach the outcome `decode1` gives: an empty poll; a drop with one diagnostic; exactly the dispatch of the frame;
or a wait with every byte consumed. -/
def Obligations.ReaderRefinesDecodeOne : Prop :=
  ∀ s : State, rxMayStep s = true → s.rxState = .sync1 → s.rxBuf.wf = true →
    (s.cfg.mode = .threaded → s.alive = true) →
    match decode1 s.rxFifo with
    | (.empty, _) => runMove .rx s = .next { s with ssPhase := phaseAfterAttempt s }
    | (.drop code, rest) => ∃ (n : Nat) (t : State) (d : Diag),
        rxRun n s = .next t ∧ t.rxState = .sync1 ∧ t.rxFifo = rest ∧ t.ssPhase = phaseAfterAttempt s ∧
        t.events = s.events ++ [.diag d] ∧ d.code = dropNumber code ∧ t.queue = s.queue ∧ t.alive = s.alive
    | (.frame c p, rest) => ∃ (n : Nat) (t : State),
        rxRun n s = .next t ∧ t.rxState = .dispatch ∧ t.rxCmd = c ∧ rxPayload t = p ∧ t.rxFifo = rest ∧
        t.events = s.events ∧ t.queue = s.queue ∧ t.alive = s.alive ∧ rxAtDispatch t = true ∧
        runMove .rx t = exec (instrOf c p) t
    | (.short, _) => ∃ (n : Nat) (t : State),
        rxRun n s = .next t ∧ rxWaiting t = true ∧ t.events = s.events ∧ t.queue = s.queue ∧ t.alive = s.alive
end

