-- ==== Sys2Proof/Laws/Codec.lean ====
section
/-! SUPPORT. The checksum, the length bytes, the frames and the word helpers, one small lemma each. -/

namespace Sys2Proof.Laws

open Sys2Proof.Machine

@[simp] theorem byteSum_nil : byteSum [] = 0 := rfl

@[simp] theorem byteSum_cons (b : Byte) (p : List Byte) : byteSum (b :: p) = b.toNat + byteSum p := rfl

@[simp] theorem byteSum_append (p q : List Byte) : byteSum (p ++ q) = byteSum p + byteSum q := by
  induction p with
  | nil => simp
  | cons b p ih => simp [ih, Nat.add_assoc]

/-- Replacing one byte changes the sum by the difference. -/
theorem byteSum_set (p : List Byte) (i : Nat) (b : Byte) (h : i < p.length) :
    byteSum (p.set i b) + p[i].toNat = byteSum p + b.toNat := by
  induction p generalizing i with
  | nil => simp at h
  | cons c p ih =>
    cases i with
    | zero => simp; omega
    | succ i =>
      simp only [List.length_cons] at h
      have := ih i (by omega)
      simp; omega

@[simp] theorem sum8_toNat (p : List Byte) : (sum8 p).toNat = byteSum p % 256 := by simp [sum8]

@[simp] theorem checksum_toNat (p : List Byte) : (checksum p).toNat = 255 - byteSum p % 256 := by
  have h : byteSum p % 256 < 256 := Nat.mod_lt _ (by norm_num)
  simp only [checksum, BitVec.toNat_sub, sum8_toNat]
  norm_num
  omega

@[simp] theorem checksum_nil : checksum [] = 0xFF#8 := by decide

@[simp] theorem le16_toNat (b0 b1 : Byte) : (le16 b0 b1).toNat = b0.toNat + 256 * b1.toNat := by
  have := b0.isLt
  have := b1.isLt
  simp only [le16, BitVec.toNat_ofNat]
  omega

@[simp] theorem lenLo_toNat (n : Nat) : (lenLo n).toNat = n % 256 := by simp [lenLo]

@[simp] theorem lenHi_toNat (n : Nat) : (lenHi n).toNat = n / 256 % 256 := by simp [lenHi]

/-- The two length bytes of a payload that fits give its length back. -/
theorem le16_lenLo_lenHi (n : Nat) (h : n ≤ maxPayload) : (le16 (lenLo n) (lenHi n)).toNat = n := by
  have h' : n ≤ 65535 := h
  simp only [le16_toNat, lenLo_toNat, lenHi_toNat]
  omega

@[simp] theorem rxFrame_length (c : Byte) (p : List Byte) : (rxFrame c p).length = 6 + p.length := by
  simp [rxFrame]; omega

@[simp] theorem encodeTx_one_length (c : Byte) (p : List Byte) : (encodeTx .one c p).length = 5 + p.length := by
  simp [encodeTx]; omega

@[simp] theorem encodeTx_two_length (c : Byte) (p : List Byte) : (encodeTx .two c p).length = 6 + p.length := by
  simp [encodeTx]; omega

/-- No encoder output is empty. -/
theorem encodeTx_ne_nil (t : TxLenBytes) (c : Byte) (p : List Byte) : encodeTx t c p ≠ [] := by
  cases t <;> simp [encodeTx]

@[simp] theorem le32bytes_length (w : Word) : (le32bytes w).length = 4 := rfl

@[simp] theorem wordsBytes_length (ws : List Word) : (wordsBytes ws).length = 4 * ws.length := by
  induction ws with
  | nil => rfl
  | cons w ws ih => simp [wordsBytes, ih]; omega

/-- The low half written, the high half kept. -/
theorem setLenLo_toNat (n : BitVec 16) (b : Byte) : (setLenLo n b).toNat = n.toNat / 256 * 256 + b.toNat := by
  have h1 := b.isLt
  have h2 := n.isLt
  simp only [setLenLo, BitVec.toNat_append, BitVec.extractLsb'_toNat, Nat.shiftRight_eq_div_pow, Nat.shiftLeft_eq]
  rw [Nat.or_comm, ← Nat.shiftLeft_eq, Nat.or_comm, ← Nat.shiftLeft_add_eq_or_of_lt (by omega), Nat.shiftLeft_eq]
  omega

/-- The high half written, the low half kept. -/
theorem setLenHi_toNat (n : BitVec 16) (b : Byte) : (setLenHi n b).toNat = b.toNat * 256 + n.toNat % 256 := by
  have h1 := b.isLt
  have h2 := n.isLt
  simp only [setLenHi, BitVec.toNat_append, BitVec.extractLsb'_toNat]
  rw [← Nat.shiftLeft_add_eq_or_of_lt (by simp; omega), Nat.shiftLeft_eq]
  simp

/-- Writing both halves assembles the length (R130). -/
theorem setLenHi_setLenLo (n : BitVec 16) (lo hi : Byte) : setLenHi (setLenLo n lo) hi = le16 lo hi := by
  apply BitVec.eq_of_toNat_eq
  have := lo.isLt
  rw [setLenHi_toNat, setLenLo_toNat, le16_toNat]
  omega

end Sys2Proof.Laws
end

