-- ==== Sys2Proof/Laws/Memory.lean ====
section
/-! SUPPORT. The payload buffer: a byte written is the byte read, every other byte keeps its value, and every operation
keeps the canonical form (log 5). -/

namespace Sys2Proof.Laws

open Sys2Proof.Machine

theorem memWfFrom_mono {lo hi : Nat} (m : Memory) (h : memWfFrom hi m = true) (hle : lo ≤ hi) : memWfFrom lo m = true := by
  cases m with
  | nil => rfl
  | cons c m =>
    obtain ⟨x, b⟩ := c
    simp only [memWfFrom, Bool.and_eq_true, decide_eq_true_eq] at h ⊢
    exact ⟨⟨⟨le_trans hle h.1.1.1, h.1.1.2⟩, h.1.2⟩, h.2⟩

/-- Below a canonical list's bound nothing is listed. -/
theorem memRead_below {lo a : Nat} (m : Memory) (h : memWfFrom lo m = true) (ha : a < lo) : memRead m a = unwrittenByte := by
  induction m generalizing lo with
  | nil => rfl
  | cons c m ih =>
    obtain ⟨x, b⟩ := c
    simp only [memWfFrom, Bool.and_eq_true, decide_eq_true_eq] at h
    have hx : x ≠ a := by omega
    simp only [memRead, if_neg hx]
    exact ih h.2 (by omega)

/-- A byte written is the byte read. -/
theorem memRead_memWrite_same {lo : Nat} (m : Memory) (a : Nat) (b : Byte) (h : memWfFrom lo m = true) :
    memRead (memWrite m a b) a = b := by
  induction m generalizing lo with
  | nil => by_cases hb : b = unwrittenByte <;> simp [memWrite, memRead, hb]
  | cons c m ih =>
    obtain ⟨x, v⟩ := c
    have hw := h
    simp only [memWfFrom, Bool.and_eq_true, decide_eq_true_eq] at h
    simp only [memWrite]
    by_cases hlt : a < x
    · by_cases hb : b = unwrittenByte
      · have hr := memRead_below (lo := x) ((x, v) :: m)
          (by simp only [memWfFrom, Bool.and_eq_true, decide_eq_true_eq]; exact ⟨⟨⟨le_refl x, h.1.1.2⟩, h.1.2⟩, h.2⟩) hlt
        rw [if_pos hlt, if_pos hb, hr, hb]
      · simp [if_pos hlt, if_neg hb, memRead]
    · by_cases heq : a = x
      · subst heq
        by_cases hb : b = unwrittenByte
        · have hr := memRead_below (lo := a + 1) m h.2 (Nat.lt_succ_self a)
          simp [hb, hr]
        · simp [hb, memRead]
      · have hne : x ≠ a := fun e => heq e.symm
        simp only [if_neg hlt, if_neg heq, memRead, if_neg hne]
        exact ih h.2

/-- A write leaves every other byte alone. -/
theorem memRead_memWrite_other (m : Memory) {a c : Nat} (b : Byte) (hac : c ≠ a) :
    memRead (memWrite m a b) c = memRead m c := by
  induction m with
  | nil => by_cases hb : b = unwrittenByte <;> simp [memWrite, memRead, hb, hac.symm]
  | cons e m ih =>
    obtain ⟨x, v⟩ := e
    simp only [memWrite]
    by_cases hlt : a < x
    · by_cases hb : b = unwrittenByte <;> simp [hlt, hb, memRead, hac.symm]
    · by_cases heq : a = x
      · subst heq
        by_cases hb : b = unwrittenByte <;> simp [hb, memRead, hac.symm]
      · simp only [if_neg hlt, if_neg heq, memRead, ih]

theorem memWfFrom_memWrite {lo : Nat} (m : Memory) {a : Nat} (b : Byte) (h : memWfFrom lo m = true) (hlo : lo ≤ a)
    (ha : a < rxBufBytes) : memWfFrom lo (memWrite m a b) = true := by
  induction m generalizing lo with
  | nil => by_cases hb : b = unwrittenByte <;> simp_all [memWrite, memWfFrom]
  | cons e m ih =>
    obtain ⟨x, v⟩ := e
    have hw := h
    simp only [memWfFrom, Bool.and_eq_true, decide_eq_true_eq] at h
    simp only [memWrite]
    by_cases hlt : a < x
    · by_cases hb : b = unwrittenByte
      · simpa [hlt, hb] using hw
      · simp only [if_pos hlt, if_neg hb, memWfFrom, Bool.and_eq_true, decide_eq_true_eq, bne_iff_ne, ne_eq]
        exact ⟨⟨⟨hlo, ha⟩, hb⟩, ⟨⟨hlt, h.1.1.2⟩, by simpa using h.1.2⟩, h.2⟩
    · by_cases heq : a = x
      · subst heq
        by_cases hb : b = unwrittenByte
        · simpa [hb] using memWfFrom_mono (lo := lo) m h.2 (by omega)
        · simp only [if_neg hlt, if_neg hb, if_true, memWfFrom, Bool.and_eq_true, decide_eq_true_eq, bne_iff_ne, ne_eq]
          exact ⟨⟨⟨hlo, ha⟩, hb⟩, h.2⟩
      · simp only [if_neg hlt, if_neg heq, memWfFrom, Bool.and_eq_true, decide_eq_true_eq]
        exact ⟨⟨⟨h.1.1.1, h.1.1.2⟩, h.1.2⟩, ih h.2 (by omega)⟩

/-- A write inside the buffer keeps the canonical form. -/
theorem wf_memWrite (m : Memory) {a : Nat} (b : Byte) (h : m.wf = true) (ha : a < rxBufBytes) : (memWrite m a b).wf = true :=
  memWfFrom_memWrite m b h (Nat.zero_le a) ha

/-- The empty buffer is canonical. -/
@[simp] theorem wf_nil : Memory.wf [] = true := rfl

/-- Loading a sequence inside the buffer keeps the canonical form. -/
theorem wf_memLoad (p : List Byte) (m : Memory) (a : Nat) (h : m.wf = true) (ha : a + p.length ≤ rxBufBytes) :
    (memLoad m a p).wf = true := by
  induction p generalizing m a with
  | nil => exact h
  | cons b p ih =>
    simp only [List.length_cons] at ha
    exact ih _ _ (wf_memWrite m b h (by omega)) (by omega)

/-- Loading leaves the bytes before it alone. -/
theorem memRead_memLoad_before (p : List Byte) (m : Memory) {a c : Nat} (hc : c < a) :
    memRead (memLoad m a p) c = memRead m c := by
  induction p generalizing m a with
  | nil => rfl
  | cons b p ih =>
    simp only [memLoad]
    rw [ih _ (by omega), memRead_memWrite_other m b (by omega)]

/-- A byte loaded is the byte read. -/
theorem memRead_memLoad_in (p : List Byte) (m : Memory) (a i : Nat) (h : m.wf = true) (hi : i < p.length)
    (ha : a + p.length ≤ rxBufBytes) : memRead (memLoad m a p) (a + i) = p[i] := by
  induction p generalizing m a i with
  | nil => simp at hi
  | cons b p ih =>
    simp only [List.length_cons] at ha hi
    cases i with
    | zero =>
      simp only [memLoad, Nat.add_zero, List.getElem_cons_zero]
      rw [memRead_memLoad_before p _ (Nat.lt_succ_self a)]
      exact memRead_memWrite_same m a b h
    | succ i =>
      simp only [memLoad, List.getElem_cons_succ]
      have := ih (memWrite m a b) (a + 1) i (wf_memWrite m b h (by omega)) (by omega) (by omega)
      rwa [show a + 1 + i = a + (i + 1) by omega] at this

@[simp] theorem memPrefix_length (m : Memory) (n : Nat) : (memPrefix m n).length = n := by simp [memPrefix]

@[simp] theorem memPrefix_zero (m : Memory) : memPrefix m 0 = [] := rfl

/-- The prefix of length n+1 is the prefix of length n and one byte more. -/
theorem memPrefix_succ (m : Memory) (n : Nat) : memPrefix m (n + 1) = memPrefix m n ++ [memRead m n] := by
  simp [memPrefix, List.range_succ]

/-- A write at or past the end of a prefix leaves the prefix alone. -/
theorem memPrefix_memWrite (m : Memory) {a n : Nat} (b : Byte) (h : n ≤ a) :
    memPrefix (memWrite m a b) n = memPrefix m n := by
  simp only [memPrefix]
  refine List.map_congr_left fun c hc => memRead_memWrite_other m b ?_
  have := List.mem_range.mp hc
  omega

/-- The prefix a load wrote is what it loaded. -/
theorem memPrefix_memLoad (p : List Byte) (m : Memory) (h : m.wf = true) (hp : p.length ≤ rxBufBytes) :
    memPrefix (memLoad m 0 p) p.length = p := by
  refine List.ext_getElem (by simp) fun i h1 h2 => ?_
  have := memRead_memLoad_in p m 0 i h h2 (by omega)
  simpa [memPrefix] using this

end Sys2Proof.Laws
end

