-- ==== Sys2Proof/Laws/State.lean ====
section
/-! SUPPORT. What each named update does to each field of State: one lemma per field per update, so that no proof unfolds a
record update. -/

namespace Sys2Proof.Laws

open Sys2Proof.Machine


/-! `emit` -/

@[simp] theorem emit_cfg (e : Event) (s : State) : (emit e s).cfg = s.cfg := rfl
@[simp] theorem emit_started (e : Event) (s : State) : (emit e s).started = s.started := rfl
@[simp] theorem emit_alive (e : Event) (s : State) : (emit e s).alive = s.alive := rfl
@[simp] theorem emit_stopNotified (e : Event) (s : State) : (emit e s).stopNotified = s.stopNotified := rfl
@[simp] theorem emit_timeSynced (e : Event) (s : State) : (emit e s).timeSynced = s.timeSynced := rfl
@[simp] theorem emit_readCount (e : Event) (s : State) : (emit e s).readCount = s.readCount := rfl
@[simp] theorem emit_paramIssued (e : Event) (s : State) : (emit e s).paramIssued = s.paramIssued := rfl
@[simp] theorem emit_ufault (e : Event) (s : State) : (emit e s).ufault = s.ufault := rfl
@[simp] theorem emit_rxState (e : Event) (s : State) : (emit e s).rxState = s.rxState := rfl
@[simp] theorem emit_rxCmd (e : Event) (s : State) : (emit e s).rxCmd = s.rxCmd := rfl
@[simp] theorem emit_rxLen (e : Event) (s : State) : (emit e s).rxLen = s.rxLen := rfl
@[simp] theorem emit_rxIdx (e : Event) (s : State) : (emit e s).rxIdx = s.rxIdx := rfl
@[simp] theorem emit_rxBuf (e : Event) (s : State) : (emit e s).rxBuf = s.rxBuf := rfl
@[simp] theorem emit_ssPhase (e : Event) (s : State) : (emit e s).ssPhase = s.ssPhase := rfl
@[simp] theorem emit_txState (e : Event) (s : State) : (emit e s).txState = s.txState := rfl
@[simp] theorem emit_txCur (e : Event) (s : State) : (emit e s).txCur = s.txCur := rfl
@[simp] theorem emit_txOff (e : Event) (s : State) : (emit e s).txOff = s.txOff := rfl
@[simp] theorem emit_queue (e : Event) (s : State) : (emit e s).queue = s.queue := rfl
@[simp] theorem emit_rxFifo (e : Event) (s : State) : (emit e s).rxFifo = s.rxFifo := rfl
@[simp] theorem emit_txWire (e : Event) (s : State) : (emit e s).txWire = s.txWire := rfl
@[simp] theorem emit_events (e : Event) (s : State) : (emit e s).events = s.events ++ [e] := rfl
@[simp] theorem emit_hostStatus (e : Event) (s : State) : (emit e s).hostStatus = s.hostStatus := rfl
@[simp] theorem emit_draws (e : Event) (s : State) : (emit e s).draws = s.draws := rfl
@[simp] theorem emit_schedule (e : Event) (s : State) : (emit e s).schedule = s.schedule := rfl
@[simp] theorem emit_moved (e : Event) (s : State) : (emit e s).moved = s.moved := rfl

/-! `diag` -/

@[simp] theorem diag_cfg (d : Diag) (s : State) : (diag d s).cfg = s.cfg := rfl
@[simp] theorem diag_started (d : Diag) (s : State) : (diag d s).started = s.started := rfl
@[simp] theorem diag_alive (d : Diag) (s : State) : (diag d s).alive = s.alive := rfl
@[simp] theorem diag_stopNotified (d : Diag) (s : State) : (diag d s).stopNotified = s.stopNotified := rfl
@[simp] theorem diag_timeSynced (d : Diag) (s : State) : (diag d s).timeSynced = s.timeSynced := rfl
@[simp] theorem diag_readCount (d : Diag) (s : State) : (diag d s).readCount = s.readCount := rfl
@[simp] theorem diag_paramIssued (d : Diag) (s : State) : (diag d s).paramIssued = s.paramIssued := rfl
@[simp] theorem diag_ufault (d : Diag) (s : State) : (diag d s).ufault = s.ufault := rfl
@[simp] theorem diag_rxState (d : Diag) (s : State) : (diag d s).rxState = s.rxState := rfl
@[simp] theorem diag_rxCmd (d : Diag) (s : State) : (diag d s).rxCmd = s.rxCmd := rfl
@[simp] theorem diag_rxLen (d : Diag) (s : State) : (diag d s).rxLen = s.rxLen := rfl
@[simp] theorem diag_rxIdx (d : Diag) (s : State) : (diag d s).rxIdx = s.rxIdx := rfl
@[simp] theorem diag_rxBuf (d : Diag) (s : State) : (diag d s).rxBuf = s.rxBuf := rfl
@[simp] theorem diag_ssPhase (d : Diag) (s : State) : (diag d s).ssPhase = s.ssPhase := rfl
@[simp] theorem diag_txState (d : Diag) (s : State) : (diag d s).txState = s.txState := rfl
@[simp] theorem diag_txCur (d : Diag) (s : State) : (diag d s).txCur = s.txCur := rfl
@[simp] theorem diag_txOff (d : Diag) (s : State) : (diag d s).txOff = s.txOff := rfl
@[simp] theorem diag_queue (d : Diag) (s : State) : (diag d s).queue = s.queue := rfl
@[simp] theorem diag_rxFifo (d : Diag) (s : State) : (diag d s).rxFifo = s.rxFifo := rfl
@[simp] theorem diag_txWire (d : Diag) (s : State) : (diag d s).txWire = s.txWire := rfl
@[simp] theorem diag_events (d : Diag) (s : State) : (diag d s).events = s.events ++ [.diag d] := rfl
@[simp] theorem diag_hostStatus (d : Diag) (s : State) : (diag d s).hostStatus = s.hostStatus := rfl
@[simp] theorem diag_draws (d : Diag) (s : State) : (diag d s).draws = s.draws := rfl
@[simp] theorem diag_schedule (d : Diag) (s : State) : (diag d s).schedule = s.schedule := rfl
@[simp] theorem diag_moved (d : Diag) (s : State) : (diag d s).moved = s.moved := rfl

/-! `enqueue` -/

@[simp] theorem enqueue_cfg (f : List Byte) (s : State) : (enqueue f s).cfg = s.cfg := rfl
@[simp] theorem enqueue_started (f : List Byte) (s : State) : (enqueue f s).started = s.started := rfl
@[simp] theorem enqueue_alive (f : List Byte) (s : State) : (enqueue f s).alive = s.alive := rfl
@[simp] theorem enqueue_stopNotified (f : List Byte) (s : State) : (enqueue f s).stopNotified = s.stopNotified := rfl
@[simp] theorem enqueue_timeSynced (f : List Byte) (s : State) : (enqueue f s).timeSynced = s.timeSynced := rfl
@[simp] theorem enqueue_readCount (f : List Byte) (s : State) : (enqueue f s).readCount = s.readCount := rfl
@[simp] theorem enqueue_paramIssued (f : List Byte) (s : State) : (enqueue f s).paramIssued = s.paramIssued := rfl
@[simp] theorem enqueue_ufault (f : List Byte) (s : State) : (enqueue f s).ufault = s.ufault := rfl
@[simp] theorem enqueue_rxState (f : List Byte) (s : State) : (enqueue f s).rxState = s.rxState := rfl
@[simp] theorem enqueue_rxCmd (f : List Byte) (s : State) : (enqueue f s).rxCmd = s.rxCmd := rfl
@[simp] theorem enqueue_rxLen (f : List Byte) (s : State) : (enqueue f s).rxLen = s.rxLen := rfl
@[simp] theorem enqueue_rxIdx (f : List Byte) (s : State) : (enqueue f s).rxIdx = s.rxIdx := rfl
@[simp] theorem enqueue_rxBuf (f : List Byte) (s : State) : (enqueue f s).rxBuf = s.rxBuf := rfl
@[simp] theorem enqueue_ssPhase (f : List Byte) (s : State) : (enqueue f s).ssPhase = s.ssPhase := rfl
@[simp] theorem enqueue_txState (f : List Byte) (s : State) : (enqueue f s).txState = s.txState := rfl
@[simp] theorem enqueue_txCur (f : List Byte) (s : State) : (enqueue f s).txCur = s.txCur := rfl
@[simp] theorem enqueue_txOff (f : List Byte) (s : State) : (enqueue f s).txOff = s.txOff := rfl
@[simp] theorem enqueue_queue (f : List Byte) (s : State) : (enqueue f s).queue = s.queue ++ [f] := rfl
@[simp] theorem enqueue_rxFifo (f : List Byte) (s : State) : (enqueue f s).rxFifo = s.rxFifo := rfl
@[simp] theorem enqueue_txWire (f : List Byte) (s : State) : (enqueue f s).txWire = s.txWire := rfl
@[simp] theorem enqueue_events (f : List Byte) (s : State) : (enqueue f s).events = s.events := rfl
@[simp] theorem enqueue_hostStatus (f : List Byte) (s : State) : (enqueue f s).hostStatus = s.hostStatus := rfl
@[simp] theorem enqueue_draws (f : List Byte) (s : State) : (enqueue f s).draws = s.draws := rfl
@[simp] theorem enqueue_schedule (f : List Byte) (s : State) : (enqueue f s).schedule = s.schedule := rfl
@[simp] theorem enqueue_moved (f : List Byte) (s : State) : (enqueue f s).moved = s.moved := rfl

/-! `sendFrame` -/

@[simp] theorem sendFrame_cfg (c : Byte) (p : List Byte) (s : State) : (sendFrame c p s).cfg = s.cfg := rfl
@[simp] theorem sendFrame_started (c : Byte) (p : List Byte) (s : State) : (sendFrame c p s).started = s.started := rfl
@[simp] theorem sendFrame_alive (c : Byte) (p : List Byte) (s : State) : (sendFrame c p s).alive = s.alive := rfl
@[simp] theorem sendFrame_stopNotified (c : Byte) (p : List Byte) (s : State) : (sendFrame c p s).stopNotified = s.stopNotified := rfl
@[simp] theorem sendFrame_timeSynced (c : Byte) (p : List Byte) (s : State) : (sendFrame c p s).timeSynced = s.timeSynced := rfl
@[simp] theorem sendFrame_readCount (c : Byte) (p : List Byte) (s : State) : (sendFrame c p s).readCount = s.readCount := rfl
@[simp] theorem sendFrame_paramIssued (c : Byte) (p : List Byte) (s : State) : (sendFrame c p s).paramIssued = s.paramIssued := rfl
@[simp] theorem sendFrame_ufault (c : Byte) (p : List Byte) (s : State) : (sendFrame c p s).ufault = s.ufault := rfl
@[simp] theorem sendFrame_rxState (c : Byte) (p : List Byte) (s : State) : (sendFrame c p s).rxState = s.rxState := rfl
@[simp] theorem sendFrame_rxCmd (c : Byte) (p : List Byte) (s : State) : (sendFrame c p s).rxCmd = s.rxCmd := rfl
@[simp] theorem sendFrame_rxLen (c : Byte) (p : List Byte) (s : State) : (sendFrame c p s).rxLen = s.rxLen := rfl
@[simp] theorem sendFrame_rxIdx (c : Byte) (p : List Byte) (s : State) : (sendFrame c p s).rxIdx = s.rxIdx := rfl
@[simp] theorem sendFrame_rxBuf (c : Byte) (p : List Byte) (s : State) : (sendFrame c p s).rxBuf = s.rxBuf := rfl
@[simp] theorem sendFrame_ssPhase (c : Byte) (p : List Byte) (s : State) : (sendFrame c p s).ssPhase = s.ssPhase := rfl
@[simp] theorem sendFrame_txState (c : Byte) (p : List Byte) (s : State) : (sendFrame c p s).txState = s.txState := rfl
@[simp] theorem sendFrame_txCur (c : Byte) (p : List Byte) (s : State) : (sendFrame c p s).txCur = s.txCur := rfl
@[simp] theorem sendFrame_txOff (c : Byte) (p : List Byte) (s : State) : (sendFrame c p s).txOff = s.txOff := rfl
@[simp] theorem sendFrame_queue (c : Byte) (p : List Byte) (s : State) : (sendFrame c p s).queue = s.queue ++ [encodeTx s.cfg.txLenBytes c p] := rfl
@[simp] theorem sendFrame_rxFifo (c : Byte) (p : List Byte) (s : State) : (sendFrame c p s).rxFifo = s.rxFifo := rfl
@[simp] theorem sendFrame_txWire (c : Byte) (p : List Byte) (s : State) : (sendFrame c p s).txWire = s.txWire := rfl
@[simp] theorem sendFrame_events (c : Byte) (p : List Byte) (s : State) : (sendFrame c p s).events = s.events := rfl
@[simp] theorem sendFrame_hostStatus (c : Byte) (p : List Byte) (s : State) : (sendFrame c p s).hostStatus = s.hostStatus := rfl
@[simp] theorem sendFrame_draws (c : Byte) (p : List Byte) (s : State) : (sendFrame c p s).draws = s.draws := rfl
@[simp] theorem sendFrame_schedule (c : Byte) (p : List Byte) (s : State) : (sendFrame c p s).schedule = s.schedule := rfl
@[simp] theorem sendFrame_moved (c : Byte) (p : List Byte) (s : State) : (sendFrame c p s).moved = s.moved := rfl

/-! `setStarted` -/

@[simp] theorem setStarted_cfg (s : State) : (setStarted s).cfg = s.cfg := rfl
@[simp] theorem setStarted_started (s : State) : (setStarted s).started = true := rfl
@[simp] theorem setStarted_alive (s : State) : (setStarted s).alive = true := rfl
@[simp] theorem setStarted_stopNotified (s : State) : (setStarted s).stopNotified = s.stopNotified := rfl
@[simp] theorem setStarted_timeSynced (s : State) : (setStarted s).timeSynced = s.timeSynced := rfl
@[simp] theorem setStarted_readCount (s : State) : (setStarted s).readCount = s.readCount := rfl
@[simp] theorem setStarted_paramIssued (s : State) : (setStarted s).paramIssued = s.paramIssued := rfl
@[simp] theorem setStarted_ufault (s : State) : (setStarted s).ufault = s.ufault := rfl
@[simp] theorem setStarted_rxState (s : State) : (setStarted s).rxState = s.rxState := rfl
@[simp] theorem setStarted_rxCmd (s : State) : (setStarted s).rxCmd = s.rxCmd := rfl
@[simp] theorem setStarted_rxLen (s : State) : (setStarted s).rxLen = s.rxLen := rfl
@[simp] theorem setStarted_rxIdx (s : State) : (setStarted s).rxIdx = s.rxIdx := rfl
@[simp] theorem setStarted_rxBuf (s : State) : (setStarted s).rxBuf = s.rxBuf := rfl
@[simp] theorem setStarted_ssPhase (s : State) : (setStarted s).ssPhase = s.ssPhase := rfl
@[simp] theorem setStarted_txState (s : State) : (setStarted s).txState = s.txState := rfl
@[simp] theorem setStarted_txCur (s : State) : (setStarted s).txCur = s.txCur := rfl
@[simp] theorem setStarted_txOff (s : State) : (setStarted s).txOff = s.txOff := rfl
@[simp] theorem setStarted_queue (s : State) : (setStarted s).queue = s.queue := rfl
@[simp] theorem setStarted_rxFifo (s : State) : (setStarted s).rxFifo = s.rxFifo := rfl
@[simp] theorem setStarted_txWire (s : State) : (setStarted s).txWire = s.txWire := rfl
@[simp] theorem setStarted_events (s : State) : (setStarted s).events = s.events := rfl
@[simp] theorem setStarted_hostStatus (s : State) : (setStarted s).hostStatus = s.hostStatus := rfl
@[simp] theorem setStarted_draws (s : State) : (setStarted s).draws = s.draws := rfl
@[simp] theorem setStarted_schedule (s : State) : (setStarted s).schedule = s.schedule := rfl
@[simp] theorem setStarted_moved (s : State) : (setStarted s).moved = s.moved := rfl

/-! `setTimeSynced` -/

@[simp] theorem setTimeSynced_cfg (s : State) : (setTimeSynced s).cfg = s.cfg := rfl
@[simp] theorem setTimeSynced_started (s : State) : (setTimeSynced s).started = s.started := rfl
@[simp] theorem setTimeSynced_alive (s : State) : (setTimeSynced s).alive = s.alive := rfl
@[simp] theorem setTimeSynced_stopNotified (s : State) : (setTimeSynced s).stopNotified = s.stopNotified := rfl
@[simp] theorem setTimeSynced_timeSynced (s : State) : (setTimeSynced s).timeSynced = true := rfl
@[simp] theorem setTimeSynced_readCount (s : State) : (setTimeSynced s).readCount = s.readCount := rfl
@[simp] theorem setTimeSynced_paramIssued (s : State) : (setTimeSynced s).paramIssued = s.paramIssued := rfl
@[simp] theorem setTimeSynced_ufault (s : State) : (setTimeSynced s).ufault = s.ufault := rfl
@[simp] theorem setTimeSynced_rxState (s : State) : (setTimeSynced s).rxState = s.rxState := rfl
@[simp] theorem setTimeSynced_rxCmd (s : State) : (setTimeSynced s).rxCmd = s.rxCmd := rfl
@[simp] theorem setTimeSynced_rxLen (s : State) : (setTimeSynced s).rxLen = s.rxLen := rfl
@[simp] theorem setTimeSynced_rxIdx (s : State) : (setTimeSynced s).rxIdx = s.rxIdx := rfl
@[simp] theorem setTimeSynced_rxBuf (s : State) : (setTimeSynced s).rxBuf = s.rxBuf := rfl
@[simp] theorem setTimeSynced_ssPhase (s : State) : (setTimeSynced s).ssPhase = s.ssPhase := rfl
@[simp] theorem setTimeSynced_txState (s : State) : (setTimeSynced s).txState = s.txState := rfl
@[simp] theorem setTimeSynced_txCur (s : State) : (setTimeSynced s).txCur = s.txCur := rfl
@[simp] theorem setTimeSynced_txOff (s : State) : (setTimeSynced s).txOff = s.txOff := rfl
@[simp] theorem setTimeSynced_queue (s : State) : (setTimeSynced s).queue = s.queue := rfl
@[simp] theorem setTimeSynced_rxFifo (s : State) : (setTimeSynced s).rxFifo = s.rxFifo := rfl
@[simp] theorem setTimeSynced_txWire (s : State) : (setTimeSynced s).txWire = s.txWire := rfl
@[simp] theorem setTimeSynced_events (s : State) : (setTimeSynced s).events = s.events := rfl
@[simp] theorem setTimeSynced_hostStatus (s : State) : (setTimeSynced s).hostStatus = s.hostStatus := rfl
@[simp] theorem setTimeSynced_draws (s : State) : (setTimeSynced s).draws = s.draws := rfl
@[simp] theorem setTimeSynced_schedule (s : State) : (setTimeSynced s).schedule = s.schedule := rfl
@[simp] theorem setTimeSynced_moved (s : State) : (setTimeSynced s).moved = s.moved := rfl

/-! `activate` -/

@[simp] theorem activate_cfg (s : State) : (activate s).cfg = s.cfg := rfl
@[simp] theorem activate_started (s : State) : (activate s).started = true := rfl
@[simp] theorem activate_alive (s : State) : (activate s).alive = true := rfl
@[simp] theorem activate_stopNotified (s : State) : (activate s).stopNotified = s.stopNotified := rfl
@[simp] theorem activate_timeSynced (s : State) : (activate s).timeSynced = s.timeSynced := rfl
@[simp] theorem activate_readCount (s : State) : (activate s).readCount = s.readCount := rfl
@[simp] theorem activate_paramIssued (s : State) : (activate s).paramIssued = s.paramIssued := rfl
@[simp] theorem activate_ufault (s : State) : (activate s).ufault = s.ufault := rfl
@[simp] theorem activate_rxState (s : State) : (activate s).rxState = .sync1 := rfl
@[simp] theorem activate_rxCmd (s : State) : (activate s).rxCmd = s.rxCmd := rfl
@[simp] theorem activate_rxLen (s : State) : (activate s).rxLen = s.rxLen := rfl
@[simp] theorem activate_rxIdx (s : State) : (activate s).rxIdx = s.rxIdx := rfl
@[simp] theorem activate_rxBuf (s : State) : (activate s).rxBuf = s.rxBuf := rfl
@[simp] theorem activate_ssPhase (s : State) : (activate s).ssPhase = .none := rfl
@[simp] theorem activate_txState (s : State) : (activate s).txState = .idle := rfl
@[simp] theorem activate_txCur (s : State) : (activate s).txCur = s.txCur := rfl
@[simp] theorem activate_txOff (s : State) : (activate s).txOff = s.txOff := rfl
@[simp] theorem activate_queue (s : State) : (activate s).queue = s.queue := rfl
@[simp] theorem activate_rxFifo (s : State) : (activate s).rxFifo = [] := rfl
@[simp] theorem activate_txWire (s : State) : (activate s).txWire = s.txWire := rfl
@[simp] theorem activate_events (s : State) : (activate s).events = s.events := rfl
@[simp] theorem activate_hostStatus (s : State) : (activate s).hostStatus = s.hostStatus := rfl
@[simp] theorem activate_draws (s : State) : (activate s).draws = s.draws := rfl
@[simp] theorem activate_schedule (s : State) : (activate s).schedule = s.schedule := rfl
@[simp] theorem activate_moved (s : State) : (activate s).moved = s.moved := rfl

/-! `countParam` -/

@[simp] theorem countParam_cfg (s : State) : (countParam s).cfg = s.cfg := rfl
@[simp] theorem countParam_started (s : State) : (countParam s).started = s.started := rfl
@[simp] theorem countParam_alive (s : State) : (countParam s).alive = s.alive := rfl
@[simp] theorem countParam_stopNotified (s : State) : (countParam s).stopNotified = s.stopNotified := rfl
@[simp] theorem countParam_timeSynced (s : State) : (countParam s).timeSynced = s.timeSynced := rfl
@[simp] theorem countParam_readCount (s : State) : (countParam s).readCount = s.readCount := rfl
@[simp] theorem countParam_paramIssued (s : State) : (countParam s).paramIssued = s.paramIssued + 1 := rfl
@[simp] theorem countParam_ufault (s : State) : (countParam s).ufault = s.ufault := rfl
@[simp] theorem countParam_rxState (s : State) : (countParam s).rxState = s.rxState := rfl
@[simp] theorem countParam_rxCmd (s : State) : (countParam s).rxCmd = s.rxCmd := rfl
@[simp] theorem countParam_rxLen (s : State) : (countParam s).rxLen = s.rxLen := rfl
@[simp] theorem countParam_rxIdx (s : State) : (countParam s).rxIdx = s.rxIdx := rfl
@[simp] theorem countParam_rxBuf (s : State) : (countParam s).rxBuf = s.rxBuf := rfl
@[simp] theorem countParam_ssPhase (s : State) : (countParam s).ssPhase = s.ssPhase := rfl
@[simp] theorem countParam_txState (s : State) : (countParam s).txState = s.txState := rfl
@[simp] theorem countParam_txCur (s : State) : (countParam s).txCur = s.txCur := rfl
@[simp] theorem countParam_txOff (s : State) : (countParam s).txOff = s.txOff := rfl
@[simp] theorem countParam_queue (s : State) : (countParam s).queue = s.queue := rfl
@[simp] theorem countParam_rxFifo (s : State) : (countParam s).rxFifo = s.rxFifo := rfl
@[simp] theorem countParam_txWire (s : State) : (countParam s).txWire = s.txWire := rfl
@[simp] theorem countParam_events (s : State) : (countParam s).events = s.events := rfl
@[simp] theorem countParam_hostStatus (s : State) : (countParam s).hostStatus = s.hostStatus := rfl
@[simp] theorem countParam_draws (s : State) : (countParam s).draws = s.draws := rfl
@[simp] theorem countParam_schedule (s : State) : (countParam s).schedule = s.schedule := rfl
@[simp] theorem countParam_moved (s : State) : (countParam s).moved = s.moved := rfl

/-! `offerSysTime` -/

@[simp] theorem offerSysTime_cfg (a : SysTimeAnswer) (s : State) : (offerSysTime a s).cfg = s.cfg := rfl
@[simp] theorem offerSysTime_started (a : SysTimeAnswer) (s : State) : (offerSysTime a s).started = s.started := rfl
@[simp] theorem offerSysTime_alive (a : SysTimeAnswer) (s : State) : (offerSysTime a s).alive = s.alive := rfl
@[simp] theorem offerSysTime_stopNotified (a : SysTimeAnswer) (s : State) : (offerSysTime a s).stopNotified = s.stopNotified := rfl
@[simp] theorem offerSysTime_timeSynced (a : SysTimeAnswer) (s : State) : (offerSysTime a s).timeSynced = s.timeSynced := rfl
@[simp] theorem offerSysTime_readCount (a : SysTimeAnswer) (s : State) : (offerSysTime a s).readCount = s.readCount := rfl
@[simp] theorem offerSysTime_paramIssued (a : SysTimeAnswer) (s : State) : (offerSysTime a s).paramIssued = s.paramIssued := rfl
@[simp] theorem offerSysTime_ufault (a : SysTimeAnswer) (s : State) : (offerSysTime a s).ufault = s.ufault := rfl
@[simp] theorem offerSysTime_rxState (a : SysTimeAnswer) (s : State) : (offerSysTime a s).rxState = s.rxState := rfl
@[simp] theorem offerSysTime_rxCmd (a : SysTimeAnswer) (s : State) : (offerSysTime a s).rxCmd = s.rxCmd := rfl
@[simp] theorem offerSysTime_rxLen (a : SysTimeAnswer) (s : State) : (offerSysTime a s).rxLen = s.rxLen := rfl
@[simp] theorem offerSysTime_rxIdx (a : SysTimeAnswer) (s : State) : (offerSysTime a s).rxIdx = s.rxIdx := rfl
@[simp] theorem offerSysTime_rxBuf (a : SysTimeAnswer) (s : State) : (offerSysTime a s).rxBuf = s.rxBuf := rfl
@[simp] theorem offerSysTime_ssPhase (a : SysTimeAnswer) (s : State) : (offerSysTime a s).ssPhase = s.ssPhase := rfl
@[simp] theorem offerSysTime_txState (a : SysTimeAnswer) (s : State) : (offerSysTime a s).txState = s.txState := rfl
@[simp] theorem offerSysTime_txCur (a : SysTimeAnswer) (s : State) : (offerSysTime a s).txCur = s.txCur := rfl
@[simp] theorem offerSysTime_txOff (a : SysTimeAnswer) (s : State) : (offerSysTime a s).txOff = s.txOff := rfl
@[simp] theorem offerSysTime_queue (a : SysTimeAnswer) (s : State) : (offerSysTime a s).queue = s.queue := rfl
@[simp] theorem offerSysTime_rxFifo (a : SysTimeAnswer) (s : State) : (offerSysTime a s).rxFifo = s.rxFifo := rfl
@[simp] theorem offerSysTime_txWire (a : SysTimeAnswer) (s : State) : (offerSysTime a s).txWire = s.txWire := rfl
@[simp] theorem offerSysTime_events (a : SysTimeAnswer) (s : State) : (offerSysTime a s).events = s.events := rfl
@[simp] theorem offerSysTime_hostStatus (a : SysTimeAnswer) (s : State) : (offerSysTime a s).hostStatus = s.hostStatus := rfl
@[simp] theorem offerSysTime_draws (a : SysTimeAnswer) (s : State) : (offerSysTime a s).draws = { s.draws with sysTime := a :: s.draws.sysTime } := rfl
@[simp] theorem offerSysTime_schedule (a : SysTimeAnswer) (s : State) : (offerSysTime a s).schedule = s.schedule := rfl
@[simp] theorem offerSysTime_moved (a : SysTimeAnswer) (s : State) : (offerSysTime a s).moved = s.moved := rfl

/-! `rxTake` -/

@[simp] theorem rxTake_cfg (r : List Byte) (s : State) : (rxTake r s).cfg = s.cfg := rfl
@[simp] theorem rxTake_started (r : List Byte) (s : State) : (rxTake r s).started = s.started := rfl
@[simp] theorem rxTake_alive (r : List Byte) (s : State) : (rxTake r s).alive = s.alive := rfl
@[simp] theorem rxTake_stopNotified (r : List Byte) (s : State) : (rxTake r s).stopNotified = s.stopNotified := rfl
@[simp] theorem rxTake_timeSynced (r : List Byte) (s : State) : (rxTake r s).timeSynced = s.timeSynced := rfl
@[simp] theorem rxTake_readCount (r : List Byte) (s : State) : (rxTake r s).readCount = s.readCount := rfl
@[simp] theorem rxTake_paramIssued (r : List Byte) (s : State) : (rxTake r s).paramIssued = s.paramIssued := rfl
@[simp] theorem rxTake_ufault (r : List Byte) (s : State) : (rxTake r s).ufault = s.ufault := rfl
@[simp] theorem rxTake_rxState (r : List Byte) (s : State) : (rxTake r s).rxState = s.rxState := rfl
@[simp] theorem rxTake_rxCmd (r : List Byte) (s : State) : (rxTake r s).rxCmd = s.rxCmd := rfl
@[simp] theorem rxTake_rxLen (r : List Byte) (s : State) : (rxTake r s).rxLen = s.rxLen := rfl
@[simp] theorem rxTake_rxIdx (r : List Byte) (s : State) : (rxTake r s).rxIdx = s.rxIdx := rfl
@[simp] theorem rxTake_rxBuf (r : List Byte) (s : State) : (rxTake r s).rxBuf = s.rxBuf := rfl
@[simp] theorem rxTake_ssPhase (r : List Byte) (s : State) : (rxTake r s).ssPhase = s.ssPhase := rfl
@[simp] theorem rxTake_txState (r : List Byte) (s : State) : (rxTake r s).txState = s.txState := rfl
@[simp] theorem rxTake_txCur (r : List Byte) (s : State) : (rxTake r s).txCur = s.txCur := rfl
@[simp] theorem rxTake_txOff (r : List Byte) (s : State) : (rxTake r s).txOff = s.txOff := rfl
@[simp] theorem rxTake_queue (r : List Byte) (s : State) : (rxTake r s).queue = s.queue := rfl
@[simp] theorem rxTake_rxFifo (r : List Byte) (s : State) : (rxTake r s).rxFifo = r := rfl
@[simp] theorem rxTake_txWire (r : List Byte) (s : State) : (rxTake r s).txWire = s.txWire := rfl
@[simp] theorem rxTake_events (r : List Byte) (s : State) : (rxTake r s).events = s.events := rfl
@[simp] theorem rxTake_hostStatus (r : List Byte) (s : State) : (rxTake r s).hostStatus = s.hostStatus := rfl
@[simp] theorem rxTake_draws (r : List Byte) (s : State) : (rxTake r s).draws = s.draws := rfl
@[simp] theorem rxTake_schedule (r : List Byte) (s : State) : (rxTake r s).schedule = s.schedule := rfl
@[simp] theorem rxTake_moved (r : List Byte) (s : State) : (rxTake r s).moved = s.moved := rfl

/-! `readCmd` -/

@[simp] theorem readCmd_cfg (b : Byte) (s : State) : (readCmd b s).cfg = s.cfg := rfl
@[simp] theorem readCmd_started (b : Byte) (s : State) : (readCmd b s).started = s.started := rfl
@[simp] theorem readCmd_alive (b : Byte) (s : State) : (readCmd b s).alive = s.alive := rfl
@[simp] theorem readCmd_stopNotified (b : Byte) (s : State) : (readCmd b s).stopNotified = s.stopNotified := rfl
@[simp] theorem readCmd_timeSynced (b : Byte) (s : State) : (readCmd b s).timeSynced = s.timeSynced := rfl
@[simp] theorem readCmd_readCount (b : Byte) (s : State) : (readCmd b s).readCount = s.readCount := rfl
@[simp] theorem readCmd_paramIssued (b : Byte) (s : State) : (readCmd b s).paramIssued = s.paramIssued := rfl
@[simp] theorem readCmd_ufault (b : Byte) (s : State) : (readCmd b s).ufault = s.ufault := rfl
@[simp] theorem readCmd_rxState (b : Byte) (s : State) : (readCmd b s).rxState = .len := rfl
@[simp] theorem readCmd_rxCmd (b : Byte) (s : State) : (readCmd b s).rxCmd = b := rfl
@[simp] theorem readCmd_rxLen (b : Byte) (s : State) : (readCmd b s).rxLen = s.rxLen := rfl
@[simp] theorem readCmd_rxIdx (b : Byte) (s : State) : (readCmd b s).rxIdx = 0#16 := rfl
@[simp] theorem readCmd_rxBuf (b : Byte) (s : State) : (readCmd b s).rxBuf = s.rxBuf := rfl
@[simp] theorem readCmd_ssPhase (b : Byte) (s : State) : (readCmd b s).ssPhase = s.ssPhase := rfl
@[simp] theorem readCmd_txState (b : Byte) (s : State) : (readCmd b s).txState = s.txState := rfl
@[simp] theorem readCmd_txCur (b : Byte) (s : State) : (readCmd b s).txCur = s.txCur := rfl
@[simp] theorem readCmd_txOff (b : Byte) (s : State) : (readCmd b s).txOff = s.txOff := rfl
@[simp] theorem readCmd_queue (b : Byte) (s : State) : (readCmd b s).queue = s.queue := rfl
@[simp] theorem readCmd_rxFifo (b : Byte) (s : State) : (readCmd b s).rxFifo = s.rxFifo := rfl
@[simp] theorem readCmd_txWire (b : Byte) (s : State) : (readCmd b s).txWire = s.txWire := rfl
@[simp] theorem readCmd_events (b : Byte) (s : State) : (readCmd b s).events = s.events := rfl
@[simp] theorem readCmd_hostStatus (b : Byte) (s : State) : (readCmd b s).hostStatus = s.hostStatus := rfl
@[simp] theorem readCmd_draws (b : Byte) (s : State) : (readCmd b s).draws = s.draws := rfl
@[simp] theorem readCmd_schedule (b : Byte) (s : State) : (readCmd b s).schedule = s.schedule := rfl
@[simp] theorem readCmd_moved (b : Byte) (s : State) : (readCmd b s).moved = s.moved := rfl

/-! `readLenLo` -/

@[simp] theorem readLenLo_cfg (b : Byte) (s : State) : (readLenLo b s).cfg = s.cfg := rfl
@[simp] theorem readLenLo_started (b : Byte) (s : State) : (readLenLo b s).started = s.started := rfl
@[simp] theorem readLenLo_alive (b : Byte) (s : State) : (readLenLo b s).alive = s.alive := rfl
@[simp] theorem readLenLo_stopNotified (b : Byte) (s : State) : (readLenLo b s).stopNotified = s.stopNotified := rfl
@[simp] theorem readLenLo_timeSynced (b : Byte) (s : State) : (readLenLo b s).timeSynced = s.timeSynced := rfl
@[simp] theorem readLenLo_readCount (b : Byte) (s : State) : (readLenLo b s).readCount = s.readCount := rfl
@[simp] theorem readLenLo_paramIssued (b : Byte) (s : State) : (readLenLo b s).paramIssued = s.paramIssued := rfl
@[simp] theorem readLenLo_ufault (b : Byte) (s : State) : (readLenLo b s).ufault = s.ufault := rfl
@[simp] theorem readLenLo_rxState (b : Byte) (s : State) : (readLenLo b s).rxState = s.rxState := rfl
@[simp] theorem readLenLo_rxCmd (b : Byte) (s : State) : (readLenLo b s).rxCmd = s.rxCmd := rfl
@[simp] theorem readLenLo_rxLen (b : Byte) (s : State) : (readLenLo b s).rxLen = setLenLo s.rxLen b := rfl
@[simp] theorem readLenLo_rxIdx (b : Byte) (s : State) : (readLenLo b s).rxIdx = 1#16 := rfl
@[simp] theorem readLenLo_rxBuf (b : Byte) (s : State) : (readLenLo b s).rxBuf = s.rxBuf := rfl
@[simp] theorem readLenLo_ssPhase (b : Byte) (s : State) : (readLenLo b s).ssPhase = s.ssPhase := rfl
@[simp] theorem readLenLo_txState (b : Byte) (s : State) : (readLenLo b s).txState = s.txState := rfl
@[simp] theorem readLenLo_txCur (b : Byte) (s : State) : (readLenLo b s).txCur = s.txCur := rfl
@[simp] theorem readLenLo_txOff (b : Byte) (s : State) : (readLenLo b s).txOff = s.txOff := rfl
@[simp] theorem readLenLo_queue (b : Byte) (s : State) : (readLenLo b s).queue = s.queue := rfl
@[simp] theorem readLenLo_rxFifo (b : Byte) (s : State) : (readLenLo b s).rxFifo = s.rxFifo := rfl
@[simp] theorem readLenLo_txWire (b : Byte) (s : State) : (readLenLo b s).txWire = s.txWire := rfl
@[simp] theorem readLenLo_events (b : Byte) (s : State) : (readLenLo b s).events = s.events := rfl
@[simp] theorem readLenLo_hostStatus (b : Byte) (s : State) : (readLenLo b s).hostStatus = s.hostStatus := rfl
@[simp] theorem readLenLo_draws (b : Byte) (s : State) : (readLenLo b s).draws = s.draws := rfl
@[simp] theorem readLenLo_schedule (b : Byte) (s : State) : (readLenLo b s).schedule = s.schedule := rfl
@[simp] theorem readLenLo_moved (b : Byte) (s : State) : (readLenLo b s).moved = s.moved := rfl

/-! `storePayload` -/

@[simp] theorem storePayload_cfg (b : Byte) (s : State) : (storePayload b s).cfg = s.cfg := rfl
@[simp] theorem storePayload_started (b : Byte) (s : State) : (storePayload b s).started = s.started := rfl
@[simp] theorem storePayload_alive (b : Byte) (s : State) : (storePayload b s).alive = s.alive := rfl
@[simp] theorem storePayload_stopNotified (b : Byte) (s : State) : (storePayload b s).stopNotified = s.stopNotified := rfl
@[simp] theorem storePayload_timeSynced (b : Byte) (s : State) : (storePayload b s).timeSynced = s.timeSynced := rfl
@[simp] theorem storePayload_readCount (b : Byte) (s : State) : (storePayload b s).readCount = s.readCount := rfl
@[simp] theorem storePayload_paramIssued (b : Byte) (s : State) : (storePayload b s).paramIssued = s.paramIssued := rfl
@[simp] theorem storePayload_ufault (b : Byte) (s : State) : (storePayload b s).ufault = s.ufault := rfl
@[simp] theorem storePayload_rxState (b : Byte) (s : State) : (storePayload b s).rxState = s.rxState := rfl
@[simp] theorem storePayload_rxCmd (b : Byte) (s : State) : (storePayload b s).rxCmd = s.rxCmd := rfl
@[simp] theorem storePayload_rxLen (b : Byte) (s : State) : (storePayload b s).rxLen = s.rxLen := rfl
@[simp] theorem storePayload_rxIdx (b : Byte) (s : State) : (storePayload b s).rxIdx = s.rxIdx + 1#16 := rfl
@[simp] theorem storePayload_rxBuf (b : Byte) (s : State) : (storePayload b s).rxBuf = memWrite s.rxBuf s.rxIdx.toNat b := rfl
@[simp] theorem storePayload_ssPhase (b : Byte) (s : State) : (storePayload b s).ssPhase = s.ssPhase := rfl
@[simp] theorem storePayload_txState (b : Byte) (s : State) : (storePayload b s).txState = s.txState := rfl
@[simp] theorem storePayload_txCur (b : Byte) (s : State) : (storePayload b s).txCur = s.txCur := rfl
@[simp] theorem storePayload_txOff (b : Byte) (s : State) : (storePayload b s).txOff = s.txOff := rfl
@[simp] theorem storePayload_queue (b : Byte) (s : State) : (storePayload b s).queue = s.queue := rfl
@[simp] theorem storePayload_rxFifo (b : Byte) (s : State) : (storePayload b s).rxFifo = s.rxFifo := rfl
@[simp] theorem storePayload_txWire (b : Byte) (s : State) : (storePayload b s).txWire = s.txWire := rfl
@[simp] theorem storePayload_events (b : Byte) (s : State) : (storePayload b s).events = s.events := rfl
@[simp] theorem storePayload_hostStatus (b : Byte) (s : State) : (storePayload b s).hostStatus = s.hostStatus := rfl
@[simp] theorem storePayload_draws (b : Byte) (s : State) : (storePayload b s).draws = s.draws := rfl
@[simp] theorem storePayload_schedule (b : Byte) (s : State) : (storePayload b s).schedule = s.schedule := rfl
@[simp] theorem storePayload_moved (b : Byte) (s : State) : (storePayload b s).moved = s.moved := rfl

/-! `txAccept` -/

@[simp] theorem txAccept_cfg (k : Nat) (s : State) : (txAccept k s).cfg = s.cfg := rfl
@[simp] theorem txAccept_started (k : Nat) (s : State) : (txAccept k s).started = s.started := rfl
@[simp] theorem txAccept_alive (k : Nat) (s : State) : (txAccept k s).alive = s.alive := rfl
@[simp] theorem txAccept_stopNotified (k : Nat) (s : State) : (txAccept k s).stopNotified = s.stopNotified := rfl
@[simp] theorem txAccept_timeSynced (k : Nat) (s : State) : (txAccept k s).timeSynced = s.timeSynced := rfl
@[simp] theorem txAccept_readCount (k : Nat) (s : State) : (txAccept k s).readCount = s.readCount := rfl
@[simp] theorem txAccept_paramIssued (k : Nat) (s : State) : (txAccept k s).paramIssued = s.paramIssued := rfl
@[simp] theorem txAccept_ufault (k : Nat) (s : State) : (txAccept k s).ufault = s.ufault := rfl
@[simp] theorem txAccept_rxState (k : Nat) (s : State) : (txAccept k s).rxState = s.rxState := rfl
@[simp] theorem txAccept_rxCmd (k : Nat) (s : State) : (txAccept k s).rxCmd = s.rxCmd := rfl
@[simp] theorem txAccept_rxLen (k : Nat) (s : State) : (txAccept k s).rxLen = s.rxLen := rfl
@[simp] theorem txAccept_rxIdx (k : Nat) (s : State) : (txAccept k s).rxIdx = s.rxIdx := rfl
@[simp] theorem txAccept_rxBuf (k : Nat) (s : State) : (txAccept k s).rxBuf = s.rxBuf := rfl
@[simp] theorem txAccept_ssPhase (k : Nat) (s : State) : (txAccept k s).ssPhase = s.ssPhase := rfl
@[simp] theorem txAccept_txState (k : Nat) (s : State) : (txAccept k s).txState = s.txState := rfl
@[simp] theorem txAccept_txCur (k : Nat) (s : State) : (txAccept k s).txCur = s.txCur := rfl
@[simp] theorem txAccept_txOff (k : Nat) (s : State) : (txAccept k s).txOff = s.txOff + k := rfl
@[simp] theorem txAccept_queue (k : Nat) (s : State) : (txAccept k s).queue = s.queue := rfl
@[simp] theorem txAccept_rxFifo (k : Nat) (s : State) : (txAccept k s).rxFifo = s.rxFifo := rfl
@[simp] theorem txAccept_txWire (k : Nat) (s : State) : (txAccept k s).txWire = s.txWire ++ (s.txCur.drop s.txOff).take k := rfl
@[simp] theorem txAccept_events (k : Nat) (s : State) : (txAccept k s).events = s.events := rfl
@[simp] theorem txAccept_hostStatus (k : Nat) (s : State) : (txAccept k s).hostStatus = s.hostStatus := rfl
@[simp] theorem txAccept_draws (k : Nat) (s : State) : (txAccept k s).draws = s.draws := rfl
@[simp] theorem txAccept_schedule (k : Nat) (s : State) : (txAccept k s).schedule = s.schedule := rfl
@[simp] theorem txAccept_moved (k : Nat) (s : State) : (txAccept k s).moved = s.moved := rfl

/-! `takeMove` -/

@[simp] theorem takeMove_cfg (s : State) : (takeMove s).cfg = s.cfg := rfl
@[simp] theorem takeMove_started (s : State) : (takeMove s).started = s.started := rfl
@[simp] theorem takeMove_alive (s : State) : (takeMove s).alive = s.alive := rfl
@[simp] theorem takeMove_stopNotified (s : State) : (takeMove s).stopNotified = s.stopNotified := rfl
@[simp] theorem takeMove_timeSynced (s : State) : (takeMove s).timeSynced = s.timeSynced := rfl
@[simp] theorem takeMove_readCount (s : State) : (takeMove s).readCount = s.readCount := rfl
@[simp] theorem takeMove_paramIssued (s : State) : (takeMove s).paramIssued = s.paramIssued := rfl
@[simp] theorem takeMove_ufault (s : State) : (takeMove s).ufault = s.ufault := rfl
@[simp] theorem takeMove_rxState (s : State) : (takeMove s).rxState = s.rxState := rfl
@[simp] theorem takeMove_rxCmd (s : State) : (takeMove s).rxCmd = s.rxCmd := rfl
@[simp] theorem takeMove_rxLen (s : State) : (takeMove s).rxLen = s.rxLen := rfl
@[simp] theorem takeMove_rxIdx (s : State) : (takeMove s).rxIdx = s.rxIdx := rfl
@[simp] theorem takeMove_rxBuf (s : State) : (takeMove s).rxBuf = s.rxBuf := rfl
@[simp] theorem takeMove_ssPhase (s : State) : (takeMove s).ssPhase = s.ssPhase := rfl
@[simp] theorem takeMove_txState (s : State) : (takeMove s).txState = s.txState := rfl
@[simp] theorem takeMove_txCur (s : State) : (takeMove s).txCur = s.txCur := rfl
@[simp] theorem takeMove_txOff (s : State) : (takeMove s).txOff = s.txOff := rfl
@[simp] theorem takeMove_queue (s : State) : (takeMove s).queue = s.queue := rfl
@[simp] theorem takeMove_rxFifo (s : State) : (takeMove s).rxFifo = s.rxFifo := rfl
@[simp] theorem takeMove_txWire (s : State) : (takeMove s).txWire = s.txWire := rfl
@[simp] theorem takeMove_events (s : State) : (takeMove s).events = s.events := rfl
@[simp] theorem takeMove_hostStatus (s : State) : (takeMove s).hostStatus = s.hostStatus := rfl
@[simp] theorem takeMove_draws (s : State) : (takeMove s).draws = s.draws := rfl
@[simp] theorem takeMove_schedule (s : State) : (takeMove s).schedule = s.schedule.tail := rfl
@[simp] theorem takeMove_moved (s : State) : (takeMove s).moved = s.moved + 1 := rfl

/-! `stopBlock` -/

@[simp] theorem stopBlock_cfg (s : State) : (stopBlock s).cfg = s.cfg := by
  unfold stopBlock; split <;> simp_all
@[simp] theorem stopBlock_started (s : State) : (stopBlock s).started = s.started := by
  unfold stopBlock; split <;> simp_all
@[simp] theorem stopBlock_alive (s : State) : (stopBlock s).alive = false := by
  unfold stopBlock; split <;> simp_all
@[simp] theorem stopBlock_stopNotified (s : State) : (stopBlock s).stopNotified = true := by
  unfold stopBlock; split <;> simp_all
@[simp] theorem stopBlock_timeSynced (s : State) : (stopBlock s).timeSynced = s.timeSynced := by
  unfold stopBlock; split <;> simp_all
@[simp] theorem stopBlock_readCount (s : State) : (stopBlock s).readCount = s.readCount := by
  unfold stopBlock; split <;> simp_all
@[simp] theorem stopBlock_paramIssued (s : State) : (stopBlock s).paramIssued = s.paramIssued := by
  unfold stopBlock; split <;> simp_all
@[simp] theorem stopBlock_ufault (s : State) : (stopBlock s).ufault = s.ufault := by
  unfold stopBlock; split <;> simp_all
@[simp] theorem stopBlock_rxState (s : State) : (stopBlock s).rxState = s.rxState := by
  unfold stopBlock; split <;> simp_all
@[simp] theorem stopBlock_rxCmd (s : State) : (stopBlock s).rxCmd = s.rxCmd := by
  unfold stopBlock; split <;> simp_all
@[simp] theorem stopBlock_rxLen (s : State) : (stopBlock s).rxLen = s.rxLen := by
  unfold stopBlock; split <;> simp_all
@[simp] theorem stopBlock_rxIdx (s : State) : (stopBlock s).rxIdx = s.rxIdx := by
  unfold stopBlock; split <;> simp_all
@[simp] theorem stopBlock_rxBuf (s : State) : (stopBlock s).rxBuf = s.rxBuf := by
  unfold stopBlock; split <;> simp_all
@[simp] theorem stopBlock_ssPhase (s : State) : (stopBlock s).ssPhase = s.ssPhase := by
  unfold stopBlock; split <;> simp_all
@[simp] theorem stopBlock_txState (s : State) : (stopBlock s).txState = s.txState := by
  unfold stopBlock; split <;> simp_all
@[simp] theorem stopBlock_txCur (s : State) : (stopBlock s).txCur = s.txCur := by
  unfold stopBlock; split <;> simp_all
@[simp] theorem stopBlock_txOff (s : State) : (stopBlock s).txOff = s.txOff := by
  unfold stopBlock; split <;> simp_all
@[simp] theorem stopBlock_queue (s : State) : (stopBlock s).queue = s.queue := by
  unfold stopBlock; split <;> simp_all
@[simp] theorem stopBlock_rxFifo (s : State) : (stopBlock s).rxFifo = s.rxFifo := by
  unfold stopBlock; split <;> simp_all
@[simp] theorem stopBlock_txWire (s : State) : (stopBlock s).txWire = s.txWire := by
  unfold stopBlock; split <;> simp_all
@[simp] theorem stopBlock_events (s : State) : (stopBlock s).events = if s.stopNotified then s.events else s.events ++ [.stopped] := by
  unfold stopBlock; split <;> simp_all
@[simp] theorem stopBlock_hostStatus (s : State) : (stopBlock s).hostStatus = s.hostStatus := by
  unfold stopBlock; split <;> simp_all
@[simp] theorem stopBlock_draws (s : State) : (stopBlock s).draws = s.draws := by
  unfold stopBlock; split <;> simp_all
@[simp] theorem stopBlock_schedule (s : State) : (stopBlock s).schedule = s.schedule := by
  unfold stopBlock; split <;> simp_all
@[simp] theorem stopBlock_moved (s : State) : (stopBlock s).moved = s.moved := by
  unfold stopBlock; split <;> simp_all

/-! `haltRx` -/

@[simp] theorem haltRx_cfg (s : State) : (haltRx s).cfg = s.cfg := by
  simp [haltRx]
@[simp] theorem haltRx_started (s : State) : (haltRx s).started = s.started := by
  simp [haltRx]
@[simp] theorem haltRx_alive (s : State) : (haltRx s).alive = false := by
  simp [haltRx]
@[simp] theorem haltRx_stopNotified (s : State) : (haltRx s).stopNotified = true := by
  simp [haltRx]
@[simp] theorem haltRx_timeSynced (s : State) : (haltRx s).timeSynced = s.timeSynced := by
  simp [haltRx]
@[simp] theorem haltRx_readCount (s : State) : (haltRx s).readCount = s.readCount := by
  simp [haltRx]
@[simp] theorem haltRx_paramIssued (s : State) : (haltRx s).paramIssued = s.paramIssued := by
  simp [haltRx]
@[simp] theorem haltRx_ufault (s : State) : (haltRx s).ufault = s.ufault := by
  simp [haltRx]
@[simp] theorem haltRx_rxState (s : State) : (haltRx s).rxState = .halt := by
  simp [haltRx]
@[simp] theorem haltRx_rxCmd (s : State) : (haltRx s).rxCmd = s.rxCmd := by
  simp [haltRx]
@[simp] theorem haltRx_rxLen (s : State) : (haltRx s).rxLen = s.rxLen := by
  simp [haltRx]
@[simp] theorem haltRx_rxIdx (s : State) : (haltRx s).rxIdx = s.rxIdx := by
  simp [haltRx]
@[simp] theorem haltRx_rxBuf (s : State) : (haltRx s).rxBuf = s.rxBuf := by
  simp [haltRx]
@[simp] theorem haltRx_ssPhase (s : State) : (haltRx s).ssPhase = s.ssPhase := by
  simp [haltRx]
@[simp] theorem haltRx_txState (s : State) : (haltRx s).txState = s.txState := by
  simp [haltRx]
@[simp] theorem haltRx_txCur (s : State) : (haltRx s).txCur = s.txCur := by
  simp [haltRx]
@[simp] theorem haltRx_txOff (s : State) : (haltRx s).txOff = s.txOff := by
  simp [haltRx]
@[simp] theorem haltRx_queue (s : State) : (haltRx s).queue = s.queue := by
  simp [haltRx]
@[simp] theorem haltRx_rxFifo (s : State) : (haltRx s).rxFifo = s.rxFifo := by
  simp [haltRx]
@[simp] theorem haltRx_txWire (s : State) : (haltRx s).txWire = s.txWire := by
  simp [haltRx]
@[simp] theorem haltRx_events (s : State) : (haltRx s).events = if s.stopNotified then s.events else s.events ++ [.stopped] := by
  simp [haltRx]
@[simp] theorem haltRx_hostStatus (s : State) : (haltRx s).hostStatus = s.hostStatus := by
  simp [haltRx]
@[simp] theorem haltRx_draws (s : State) : (haltRx s).draws = s.draws := by
  simp [haltRx]
@[simp] theorem haltRx_schedule (s : State) : (haltRx s).schedule = s.schedule := by
  simp [haltRx]
@[simp] theorem haltRx_moved (s : State) : (haltRx s).moved = s.moved := by
  simp [haltRx]

/-! `haltTx` -/

@[simp] theorem haltTx_cfg (s : State) : (haltTx s).cfg = s.cfg := by
  simp [haltTx]
@[simp] theorem haltTx_started (s : State) : (haltTx s).started = s.started := by
  simp [haltTx]
@[simp] theorem haltTx_alive (s : State) : (haltTx s).alive = false := by
  simp [haltTx]
@[simp] theorem haltTx_stopNotified (s : State) : (haltTx s).stopNotified = true := by
  simp [haltTx]
@[simp] theorem haltTx_timeSynced (s : State) : (haltTx s).timeSynced = s.timeSynced := by
  simp [haltTx]
@[simp] theorem haltTx_readCount (s : State) : (haltTx s).readCount = s.readCount := by
  simp [haltTx]
@[simp] theorem haltTx_paramIssued (s : State) : (haltTx s).paramIssued = s.paramIssued := by
  simp [haltTx]
@[simp] theorem haltTx_ufault (s : State) : (haltTx s).ufault = s.ufault := by
  simp [haltTx]
@[simp] theorem haltTx_rxState (s : State) : (haltTx s).rxState = s.rxState := by
  simp [haltTx]
@[simp] theorem haltTx_rxCmd (s : State) : (haltTx s).rxCmd = s.rxCmd := by
  simp [haltTx]
@[simp] theorem haltTx_rxLen (s : State) : (haltTx s).rxLen = s.rxLen := by
  simp [haltTx]
@[simp] theorem haltTx_rxIdx (s : State) : (haltTx s).rxIdx = s.rxIdx := by
  simp [haltTx]
@[simp] theorem haltTx_rxBuf (s : State) : (haltTx s).rxBuf = s.rxBuf := by
  simp [haltTx]
@[simp] theorem haltTx_ssPhase (s : State) : (haltTx s).ssPhase = s.ssPhase := by
  simp [haltTx]
@[simp] theorem haltTx_txState (s : State) : (haltTx s).txState = .halt := by
  simp [haltTx]
@[simp] theorem haltTx_txCur (s : State) : (haltTx s).txCur = s.txCur := by
  simp [haltTx]
@[simp] theorem haltTx_txOff (s : State) : (haltTx s).txOff = s.txOff := by
  simp [haltTx]
@[simp] theorem haltTx_queue (s : State) : (haltTx s).queue = s.queue := by
  simp [haltTx]
@[simp] theorem haltTx_rxFifo (s : State) : (haltTx s).rxFifo = s.rxFifo := by
  simp [haltTx]
@[simp] theorem haltTx_txWire (s : State) : (haltTx s).txWire = s.txWire := by
  simp [haltTx]
@[simp] theorem haltTx_events (s : State) : (haltTx s).events = if s.stopNotified then s.events else s.events ++ [.stopped] := by
  simp [haltTx]
@[simp] theorem haltTx_hostStatus (s : State) : (haltTx s).hostStatus = s.hostStatus := by
  simp [haltTx]
@[simp] theorem haltTx_draws (s : State) : (haltTx s).draws = s.draws := by
  simp [haltTx]
@[simp] theorem haltTx_schedule (s : State) : (haltTx s).schedule = s.schedule := by
  simp [haltTx]
@[simp] theorem haltTx_moved (s : State) : (haltTx s).moved = s.moved := by
  simp [haltTx]

/-! `raiseUnspecified` -/

@[simp] theorem raiseUnspecified_cfg (u : UCode) (s : State) : (raiseUnspecified u s).cfg = s.cfg := by
  unfold raiseUnspecified; split <;> simp_all
@[simp] theorem raiseUnspecified_started (u : UCode) (s : State) : (raiseUnspecified u s).started = s.started := by
  unfold raiseUnspecified; split <;> simp_all
@[simp] theorem raiseUnspecified_alive (u : UCode) (s : State) : (raiseUnspecified u s).alive = s.alive := by
  unfold raiseUnspecified; split <;> simp_all
@[simp] theorem raiseUnspecified_stopNotified (u : UCode) (s : State) : (raiseUnspecified u s).stopNotified = s.stopNotified := by
  unfold raiseUnspecified; split <;> simp_all
@[simp] theorem raiseUnspecified_timeSynced (u : UCode) (s : State) : (raiseUnspecified u s).timeSynced = s.timeSynced := by
  unfold raiseUnspecified; split <;> simp_all
@[simp] theorem raiseUnspecified_readCount (u : UCode) (s : State) : (raiseUnspecified u s).readCount = s.readCount := by
  unfold raiseUnspecified; split <;> simp_all
@[simp] theorem raiseUnspecified_paramIssued (u : UCode) (s : State) : (raiseUnspecified u s).paramIssued = s.paramIssued := by
  unfold raiseUnspecified; split <;> simp_all
@[simp] theorem raiseUnspecified_ufault (u : UCode) (s : State) : (raiseUnspecified u s).ufault = some (s.ufault.getD u) := by
  unfold raiseUnspecified; split <;> simp_all
@[simp] theorem raiseUnspecified_rxState (u : UCode) (s : State) : (raiseUnspecified u s).rxState = s.rxState := by
  unfold raiseUnspecified; split <;> simp_all
@[simp] theorem raiseUnspecified_rxCmd (u : UCode) (s : State) : (raiseUnspecified u s).rxCmd = s.rxCmd := by
  unfold raiseUnspecified; split <;> simp_all
@[simp] theorem raiseUnspecified_rxLen (u : UCode) (s : State) : (raiseUnspecified u s).rxLen = s.rxLen := by
  unfold raiseUnspecified; split <;> simp_all
@[simp] theorem raiseUnspecified_rxIdx (u : UCode) (s : State) : (raiseUnspecified u s).rxIdx = s.rxIdx := by
  unfold raiseUnspecified; split <;> simp_all
@[simp] theorem raiseUnspecified_rxBuf (u : UCode) (s : State) : (raiseUnspecified u s).rxBuf = s.rxBuf := by
  unfold raiseUnspecified; split <;> simp_all
@[simp] theorem raiseUnspecified_ssPhase (u : UCode) (s : State) : (raiseUnspecified u s).ssPhase = s.ssPhase := by
  unfold raiseUnspecified; split <;> simp_all
@[simp] theorem raiseUnspecified_txState (u : UCode) (s : State) : (raiseUnspecified u s).txState = s.txState := by
  unfold raiseUnspecified; split <;> simp_all
@[simp] theorem raiseUnspecified_txCur (u : UCode) (s : State) : (raiseUnspecified u s).txCur = s.txCur := by
  unfold raiseUnspecified; split <;> simp_all
@[simp] theorem raiseUnspecified_txOff (u : UCode) (s : State) : (raiseUnspecified u s).txOff = s.txOff := by
  unfold raiseUnspecified; split <;> simp_all
@[simp] theorem raiseUnspecified_queue (u : UCode) (s : State) : (raiseUnspecified u s).queue = s.queue := by
  unfold raiseUnspecified; split <;> simp_all
@[simp] theorem raiseUnspecified_rxFifo (u : UCode) (s : State) : (raiseUnspecified u s).rxFifo = s.rxFifo := by
  unfold raiseUnspecified; split <;> simp_all
@[simp] theorem raiseUnspecified_txWire (u : UCode) (s : State) : (raiseUnspecified u s).txWire = s.txWire := by
  unfold raiseUnspecified; split <;> simp_all
@[simp] theorem raiseUnspecified_events (u : UCode) (s : State) : (raiseUnspecified u s).events = s.events := by
  unfold raiseUnspecified; split <;> simp_all
@[simp] theorem raiseUnspecified_hostStatus (u : UCode) (s : State) : (raiseUnspecified u s).hostStatus = s.hostStatus := by
  unfold raiseUnspecified; split <;> simp_all
@[simp] theorem raiseUnspecified_draws (u : UCode) (s : State) : (raiseUnspecified u s).draws = s.draws := by
  unfold raiseUnspecified; split <;> simp_all
@[simp] theorem raiseUnspecified_schedule (u : UCode) (s : State) : (raiseUnspecified u s).schedule = s.schedule := by
  unfold raiseUnspecified; split <;> simp_all
@[simp] theorem raiseUnspecified_moved (u : UCode) (s : State) : (raiseUnspecified u s).moved = s.moved := by
  unfold raiseUnspecified; split <;> simp_all

/-! `endAttempt` -/

@[simp] theorem endAttempt_cfg (s : State) : (endAttempt s).cfg = s.cfg := by
  unfold endAttempt; split <;> simp_all
@[simp] theorem endAttempt_started (s : State) : (endAttempt s).started = s.started := by
  unfold endAttempt; split <;> simp_all
@[simp] theorem endAttempt_alive (s : State) : (endAttempt s).alive = s.alive := by
  unfold endAttempt; split <;> simp_all
@[simp] theorem endAttempt_stopNotified (s : State) : (endAttempt s).stopNotified = s.stopNotified := by
  unfold endAttempt; split <;> simp_all
@[simp] theorem endAttempt_timeSynced (s : State) : (endAttempt s).timeSynced = s.timeSynced := by
  unfold endAttempt; split <;> simp_all
@[simp] theorem endAttempt_readCount (s : State) : (endAttempt s).readCount = s.readCount := by
  unfold endAttempt; split <;> simp_all
@[simp] theorem endAttempt_paramIssued (s : State) : (endAttempt s).paramIssued = s.paramIssued := by
  unfold endAttempt; split <;> simp_all
@[simp] theorem endAttempt_ufault (s : State) : (endAttempt s).ufault = s.ufault := by
  unfold endAttempt; split <;> simp_all
@[simp] theorem endAttempt_rxState (s : State) : (endAttempt s).rxState = .sync1 := by
  unfold endAttempt; split <;> simp_all
@[simp] theorem endAttempt_rxCmd (s : State) : (endAttempt s).rxCmd = s.rxCmd := by
  unfold endAttempt; split <;> simp_all
@[simp] theorem endAttempt_rxLen (s : State) : (endAttempt s).rxLen = s.rxLen := by
  unfold endAttempt; split <;> simp_all
@[simp] theorem endAttempt_rxIdx (s : State) : (endAttempt s).rxIdx = s.rxIdx := by
  unfold endAttempt; split <;> simp_all
@[simp] theorem endAttempt_rxBuf (s : State) : (endAttempt s).rxBuf = s.rxBuf := by
  unfold endAttempt; split <;> simp_all
@[simp] theorem endAttempt_ssPhase (s : State) : (endAttempt s).ssPhase = if s.cfg.mode = .singleStep then .write else s.ssPhase := by
  unfold endAttempt; split <;> simp_all
@[simp] theorem endAttempt_txState (s : State) : (endAttempt s).txState = s.txState := by
  unfold endAttempt; split <;> simp_all
@[simp] theorem endAttempt_txCur (s : State) : (endAttempt s).txCur = s.txCur := by
  unfold endAttempt; split <;> simp_all
@[simp] theorem endAttempt_txOff (s : State) : (endAttempt s).txOff = s.txOff := by
  unfold endAttempt; split <;> simp_all
@[simp] theorem endAttempt_queue (s : State) : (endAttempt s).queue = s.queue := by
  unfold endAttempt; split <;> simp_all
@[simp] theorem endAttempt_rxFifo (s : State) : (endAttempt s).rxFifo = s.rxFifo := by
  unfold endAttempt; split <;> simp_all
@[simp] theorem endAttempt_txWire (s : State) : (endAttempt s).txWire = s.txWire := by
  unfold endAttempt; split <;> simp_all
@[simp] theorem endAttempt_events (s : State) : (endAttempt s).events = s.events := by
  unfold endAttempt; split <;> simp_all
@[simp] theorem endAttempt_hostStatus (s : State) : (endAttempt s).hostStatus = s.hostStatus := by
  unfold endAttempt; split <;> simp_all
@[simp] theorem endAttempt_draws (s : State) : (endAttempt s).draws = s.draws := by
  unfold endAttempt; split <;> simp_all
@[simp] theorem endAttempt_schedule (s : State) : (endAttempt s).schedule = s.schedule := by
  unfold endAttempt; split <;> simp_all
@[simp] theorem endAttempt_moved (s : State) : (endAttempt s).moved = s.moved := by
  unfold endAttempt; split <;> simp_all

/-! `endWriteCycle` -/

@[simp] theorem endWriteCycle_cfg (s : State) : (endWriteCycle s).cfg = s.cfg := by
  unfold endWriteCycle; split <;> simp_all
@[simp] theorem endWriteCycle_started (s : State) : (endWriteCycle s).started = s.started := by
  unfold endWriteCycle; split <;> simp_all
@[simp] theorem endWriteCycle_alive (s : State) : (endWriteCycle s).alive = s.alive := by
  unfold endWriteCycle; split <;> simp_all
@[simp] theorem endWriteCycle_stopNotified (s : State) : (endWriteCycle s).stopNotified = s.stopNotified := by
  unfold endWriteCycle; split <;> simp_all
@[simp] theorem endWriteCycle_timeSynced (s : State) : (endWriteCycle s).timeSynced = s.timeSynced := by
  unfold endWriteCycle; split <;> simp_all
@[simp] theorem endWriteCycle_readCount (s : State) : (endWriteCycle s).readCount = s.readCount := by
  unfold endWriteCycle; split <;> simp_all
@[simp] theorem endWriteCycle_paramIssued (s : State) : (endWriteCycle s).paramIssued = s.paramIssued := by
  unfold endWriteCycle; split <;> simp_all
@[simp] theorem endWriteCycle_ufault (s : State) : (endWriteCycle s).ufault = s.ufault := by
  unfold endWriteCycle; split <;> simp_all
@[simp] theorem endWriteCycle_rxState (s : State) : (endWriteCycle s).rxState = s.rxState := by
  unfold endWriteCycle; split <;> simp_all
@[simp] theorem endWriteCycle_rxCmd (s : State) : (endWriteCycle s).rxCmd = s.rxCmd := by
  unfold endWriteCycle; split <;> simp_all
@[simp] theorem endWriteCycle_rxLen (s : State) : (endWriteCycle s).rxLen = s.rxLen := by
  unfold endWriteCycle; split <;> simp_all
@[simp] theorem endWriteCycle_rxIdx (s : State) : (endWriteCycle s).rxIdx = s.rxIdx := by
  unfold endWriteCycle; split <;> simp_all
@[simp] theorem endWriteCycle_rxBuf (s : State) : (endWriteCycle s).rxBuf = s.rxBuf := by
  unfold endWriteCycle; split <;> simp_all
@[simp] theorem endWriteCycle_ssPhase (s : State) : (endWriteCycle s).ssPhase = if s.cfg.mode = .singleStep then .none else s.ssPhase := by
  unfold endWriteCycle; split <;> simp_all
@[simp] theorem endWriteCycle_txState (s : State) : (endWriteCycle s).txState = s.txState := by
  unfold endWriteCycle; split <;> simp_all
@[simp] theorem endWriteCycle_txCur (s : State) : (endWriteCycle s).txCur = s.txCur := by
  unfold endWriteCycle; split <;> simp_all
@[simp] theorem endWriteCycle_txOff (s : State) : (endWriteCycle s).txOff = s.txOff := by
  unfold endWriteCycle; split <;> simp_all
@[simp] theorem endWriteCycle_queue (s : State) : (endWriteCycle s).queue = s.queue := by
  unfold endWriteCycle; split <;> simp_all
@[simp] theorem endWriteCycle_rxFifo (s : State) : (endWriteCycle s).rxFifo = s.rxFifo := by
  unfold endWriteCycle; split <;> simp_all
@[simp] theorem endWriteCycle_txWire (s : State) : (endWriteCycle s).txWire = s.txWire := by
  unfold endWriteCycle; split <;> simp_all
@[simp] theorem endWriteCycle_events (s : State) : (endWriteCycle s).events = s.events := by
  unfold endWriteCycle; split <;> simp_all
@[simp] theorem endWriteCycle_hostStatus (s : State) : (endWriteCycle s).hostStatus = s.hostStatus := by
  unfold endWriteCycle; split <;> simp_all
@[simp] theorem endWriteCycle_draws (s : State) : (endWriteCycle s).draws = s.draws := by
  unfold endWriteCycle; split <;> simp_all
@[simp] theorem endWriteCycle_schedule (s : State) : (endWriteCycle s).schedule = s.schedule := by
  unfold endWriteCycle; split <;> simp_all
@[simp] theorem endWriteCycle_moved (s : State) : (endWriteCycle s).moved = s.moved := by
  unfold endWriteCycle; split <;> simp_all

/-! `countRead` -/

@[simp] theorem countRead_cfg (q : ReadCountPoint) (s : State) : (countRead q s).cfg = s.cfg := by
  unfold countRead; split <;> simp_all
@[simp] theorem countRead_started (q : ReadCountPoint) (s : State) : (countRead q s).started = s.started := by
  unfold countRead; split <;> simp_all
@[simp] theorem countRead_alive (q : ReadCountPoint) (s : State) : (countRead q s).alive = s.alive := by
  unfold countRead; split <;> simp_all
@[simp] theorem countRead_stopNotified (q : ReadCountPoint) (s : State) : (countRead q s).stopNotified = s.stopNotified := by
  unfold countRead; split <;> simp_all
@[simp] theorem countRead_timeSynced (q : ReadCountPoint) (s : State) : (countRead q s).timeSynced = s.timeSynced := by
  unfold countRead; split <;> simp_all
@[simp] theorem countRead_readCount (q : ReadCountPoint) (s : State) : (countRead q s).readCount = if s.cfg.readCountPoint = q then s.readCount + s.rxLen.toNat else s.readCount := by
  unfold countRead; split <;> simp_all
@[simp] theorem countRead_paramIssued (q : ReadCountPoint) (s : State) : (countRead q s).paramIssued = s.paramIssued := by
  unfold countRead; split <;> simp_all
@[simp] theorem countRead_ufault (q : ReadCountPoint) (s : State) : (countRead q s).ufault = s.ufault := by
  unfold countRead; split <;> simp_all
@[simp] theorem countRead_rxState (q : ReadCountPoint) (s : State) : (countRead q s).rxState = s.rxState := by
  unfold countRead; split <;> simp_all
@[simp] theorem countRead_rxCmd (q : ReadCountPoint) (s : State) : (countRead q s).rxCmd = s.rxCmd := by
  unfold countRead; split <;> simp_all
@[simp] theorem countRead_rxLen (q : ReadCountPoint) (s : State) : (countRead q s).rxLen = s.rxLen := by
  unfold countRead; split <;> simp_all
@[simp] theorem countRead_rxIdx (q : ReadCountPoint) (s : State) : (countRead q s).rxIdx = s.rxIdx := by
  unfold countRead; split <;> simp_all
@[simp] theorem countRead_rxBuf (q : ReadCountPoint) (s : State) : (countRead q s).rxBuf = s.rxBuf := by
  unfold countRead; split <;> simp_all
@[simp] theorem countRead_ssPhase (q : ReadCountPoint) (s : State) : (countRead q s).ssPhase = s.ssPhase := by
  unfold countRead; split <;> simp_all
@[simp] theorem countRead_txState (q : ReadCountPoint) (s : State) : (countRead q s).txState = s.txState := by
  unfold countRead; split <;> simp_all
@[simp] theorem countRead_txCur (q : ReadCountPoint) (s : State) : (countRead q s).txCur = s.txCur := by
  unfold countRead; split <;> simp_all
@[simp] theorem countRead_txOff (q : ReadCountPoint) (s : State) : (countRead q s).txOff = s.txOff := by
  unfold countRead; split <;> simp_all
@[simp] theorem countRead_queue (q : ReadCountPoint) (s : State) : (countRead q s).queue = s.queue := by
  unfold countRead; split <;> simp_all
@[simp] theorem countRead_rxFifo (q : ReadCountPoint) (s : State) : (countRead q s).rxFifo = s.rxFifo := by
  unfold countRead; split <;> simp_all
@[simp] theorem countRead_txWire (q : ReadCountPoint) (s : State) : (countRead q s).txWire = s.txWire := by
  unfold countRead; split <;> simp_all
@[simp] theorem countRead_events (q : ReadCountPoint) (s : State) : (countRead q s).events = s.events := by
  unfold countRead; split <;> simp_all
@[simp] theorem countRead_hostStatus (q : ReadCountPoint) (s : State) : (countRead q s).hostStatus = s.hostStatus := by
  unfold countRead; split <;> simp_all
@[simp] theorem countRead_draws (q : ReadCountPoint) (s : State) : (countRead q s).draws = s.draws := by
  unfold countRead; split <;> simp_all
@[simp] theorem countRead_schedule (q : ReadCountPoint) (s : State) : (countRead q s).schedule = s.schedule := by
  unfold countRead; split <;> simp_all
@[simp] theorem countRead_moved (q : ReadCountPoint) (s : State) : (countRead q s).moved = s.moved := by
  unfold countRead; split <;> simp_all

/-! `useSysTime` -/

@[simp] theorem useSysTime_cfg (s : State) : (useSysTime s).cfg = s.cfg := by
  unfold useSysTime; split <;> rfl
@[simp] theorem useSysTime_started (s : State) : (useSysTime s).started = s.started := by
  unfold useSysTime; split <;> rfl
@[simp] theorem useSysTime_alive (s : State) : (useSysTime s).alive = s.alive := by
  unfold useSysTime; split <;> rfl
@[simp] theorem useSysTime_stopNotified (s : State) : (useSysTime s).stopNotified = s.stopNotified := by
  unfold useSysTime; split <;> rfl
@[simp] theorem useSysTime_timeSynced (s : State) : (useSysTime s).timeSynced = s.timeSynced := by
  unfold useSysTime; split <;> rfl
@[simp] theorem useSysTime_readCount (s : State) : (useSysTime s).readCount = s.readCount := by
  unfold useSysTime; split <;> rfl
@[simp] theorem useSysTime_paramIssued (s : State) : (useSysTime s).paramIssued = s.paramIssued := by
  unfold useSysTime; split <;> rfl
@[simp] theorem useSysTime_ufault (s : State) : (useSysTime s).ufault = s.ufault := by
  unfold useSysTime; split <;> rfl
@[simp] theorem useSysTime_rxState (s : State) : (useSysTime s).rxState = s.rxState := by
  unfold useSysTime; split <;> rfl
@[simp] theorem useSysTime_rxCmd (s : State) : (useSysTime s).rxCmd = s.rxCmd := by
  unfold useSysTime; split <;> rfl
@[simp] theorem useSysTime_rxLen (s : State) : (useSysTime s).rxLen = s.rxLen := by
  unfold useSysTime; split <;> rfl
@[simp] theorem useSysTime_rxIdx (s : State) : (useSysTime s).rxIdx = s.rxIdx := by
  unfold useSysTime; split <;> rfl
@[simp] theorem useSysTime_rxBuf (s : State) : (useSysTime s).rxBuf = s.rxBuf := by
  unfold useSysTime; split <;> rfl
@[simp] theorem useSysTime_ssPhase (s : State) : (useSysTime s).ssPhase = s.ssPhase := by
  unfold useSysTime; split <;> rfl
@[simp] theorem useSysTime_txState (s : State) : (useSysTime s).txState = s.txState := by
  unfold useSysTime; split <;> rfl
@[simp] theorem useSysTime_txCur (s : State) : (useSysTime s).txCur = s.txCur := by
  unfold useSysTime; split <;> rfl
@[simp] theorem useSysTime_txOff (s : State) : (useSysTime s).txOff = s.txOff := by
  unfold useSysTime; split <;> rfl
@[simp] theorem useSysTime_queue (s : State) : (useSysTime s).queue = s.queue := by
  unfold useSysTime; split <;> rfl
@[simp] theorem useSysTime_rxFifo (s : State) : (useSysTime s).rxFifo = s.rxFifo := by
  unfold useSysTime; split <;> rfl
@[simp] theorem useSysTime_txWire (s : State) : (useSysTime s).txWire = s.txWire := by
  unfold useSysTime; split <;> rfl
@[simp] theorem useSysTime_events (s : State) : (useSysTime s).events = s.events := by
  unfold useSysTime; split <;> rfl
@[simp] theorem useSysTime_hostStatus (s : State) : (useSysTime s).hostStatus = s.hostStatus := by
  unfold useSysTime; split <;> rfl
@[simp] theorem useSysTime_schedule (s : State) : (useSysTime s).schedule = s.schedule := by
  unfold useSysTime; split <;> rfl
@[simp] theorem useSysTime_moved (s : State) : (useSysTime s).moved = s.moved := by
  unfold useSysTime; split <;> rfl

/-! `useCall` -/

@[simp] theorem useCall_cfg (s : State) : (useCall s).cfg = s.cfg := by
  unfold useCall; split <;> rfl
@[simp] theorem useCall_started (s : State) : (useCall s).started = s.started := by
  unfold useCall; split <;> rfl
@[simp] theorem useCall_alive (s : State) : (useCall s).alive = s.alive := by
  unfold useCall; split <;> rfl
@[simp] theorem useCall_stopNotified (s : State) : (useCall s).stopNotified = s.stopNotified := by
  unfold useCall; split <;> rfl
@[simp] theorem useCall_timeSynced (s : State) : (useCall s).timeSynced = s.timeSynced := by
  unfold useCall; split <;> rfl
@[simp] theorem useCall_readCount (s : State) : (useCall s).readCount = s.readCount := by
  unfold useCall; split <;> rfl
@[simp] theorem useCall_paramIssued (s : State) : (useCall s).paramIssued = s.paramIssued := by
  unfold useCall; split <;> rfl
@[simp] theorem useCall_ufault (s : State) : (useCall s).ufault = s.ufault := by
  unfold useCall; split <;> rfl
@[simp] theorem useCall_rxState (s : State) : (useCall s).rxState = s.rxState := by
  unfold useCall; split <;> rfl
@[simp] theorem useCall_rxCmd (s : State) : (useCall s).rxCmd = s.rxCmd := by
  unfold useCall; split <;> rfl
@[simp] theorem useCall_rxLen (s : State) : (useCall s).rxLen = s.rxLen := by
  unfold useCall; split <;> rfl
@[simp] theorem useCall_rxIdx (s : State) : (useCall s).rxIdx = s.rxIdx := by
  unfold useCall; split <;> rfl
@[simp] theorem useCall_rxBuf (s : State) : (useCall s).rxBuf = s.rxBuf := by
  unfold useCall; split <;> rfl
@[simp] theorem useCall_ssPhase (s : State) : (useCall s).ssPhase = s.ssPhase := by
  unfold useCall; split <;> rfl
@[simp] theorem useCall_txState (s : State) : (useCall s).txState = s.txState := by
  unfold useCall; split <;> rfl
@[simp] theorem useCall_txCur (s : State) : (useCall s).txCur = s.txCur := by
  unfold useCall; split <;> rfl
@[simp] theorem useCall_txOff (s : State) : (useCall s).txOff = s.txOff := by
  unfold useCall; split <;> rfl
@[simp] theorem useCall_queue (s : State) : (useCall s).queue = s.queue := by
  unfold useCall; split <;> rfl
@[simp] theorem useCall_rxFifo (s : State) : (useCall s).rxFifo = s.rxFifo := by
  unfold useCall; split <;> rfl
@[simp] theorem useCall_txWire (s : State) : (useCall s).txWire = s.txWire := by
  unfold useCall; split <;> rfl
@[simp] theorem useCall_events (s : State) : (useCall s).events = s.events := by
  unfold useCall; split <;> rfl
@[simp] theorem useCall_hostStatus (s : State) : (useCall s).hostStatus = s.hostStatus := by
  unfold useCall; split <;> rfl
@[simp] theorem useCall_schedule (s : State) : (useCall s).schedule = s.schedule := by
  unfold useCall; split <;> rfl
@[simp] theorem useCall_moved (s : State) : (useCall s).moved = s.moved := by
  unfold useCall; split <;> rfl

/-! `useReset` -/

@[simp] theorem useReset_cfg (s : State) : (useReset s).cfg = s.cfg := by
  unfold useReset; split <;> rfl
@[simp] theorem useReset_started (s : State) : (useReset s).started = s.started := by
  unfold useReset; split <;> rfl
@[simp] theorem useReset_alive (s : State) : (useReset s).alive = s.alive := by
  unfold useReset; split <;> rfl
@[simp] theorem useReset_stopNotified (s : State) : (useReset s).stopNotified = s.stopNotified := by
  unfold useReset; split <;> rfl
@[simp] theorem useReset_timeSynced (s : State) : (useReset s).timeSynced = s.timeSynced := by
  unfold useReset; split <;> rfl
@[simp] theorem useReset_readCount (s : State) : (useReset s).readCount = s.readCount := by
  unfold useReset; split <;> rfl
@[simp] theorem useReset_paramIssued (s : State) : (useReset s).paramIssued = s.paramIssued := by
  unfold useReset; split <;> rfl
@[simp] theorem useReset_ufault (s : State) : (useReset s).ufault = s.ufault := by
  unfold useReset; split <;> rfl
@[simp] theorem useReset_rxState (s : State) : (useReset s).rxState = s.rxState := by
  unfold useReset; split <;> rfl
@[simp] theorem useReset_rxCmd (s : State) : (useReset s).rxCmd = s.rxCmd := by
  unfold useReset; split <;> rfl
@[simp] theorem useReset_rxLen (s : State) : (useReset s).rxLen = s.rxLen := by
  unfold useReset; split <;> rfl
@[simp] theorem useReset_rxIdx (s : State) : (useReset s).rxIdx = s.rxIdx := by
  unfold useReset; split <;> rfl
@[simp] theorem useReset_rxBuf (s : State) : (useReset s).rxBuf = s.rxBuf := by
  unfold useReset; split <;> rfl
@[simp] theorem useReset_ssPhase (s : State) : (useReset s).ssPhase = s.ssPhase := by
  unfold useReset; split <;> rfl
@[simp] theorem useReset_txState (s : State) : (useReset s).txState = s.txState := by
  unfold useReset; split <;> rfl
@[simp] theorem useReset_txCur (s : State) : (useReset s).txCur = s.txCur := by
  unfold useReset; split <;> rfl
@[simp] theorem useReset_txOff (s : State) : (useReset s).txOff = s.txOff := by
  unfold useReset; split <;> rfl
@[simp] theorem useReset_queue (s : State) : (useReset s).queue = s.queue := by
  unfold useReset; split <;> rfl
@[simp] theorem useReset_rxFifo (s : State) : (useReset s).rxFifo = s.rxFifo := by
  unfold useReset; split <;> rfl
@[simp] theorem useReset_txWire (s : State) : (useReset s).txWire = s.txWire := by
  unfold useReset; split <;> rfl
@[simp] theorem useReset_events (s : State) : (useReset s).events = s.events := by
  unfold useReset; split <;> rfl
@[simp] theorem useReset_hostStatus (s : State) : (useReset s).hostStatus = s.hostStatus := by
  unfold useReset; split <;> rfl
@[simp] theorem useReset_schedule (s : State) : (useReset s).schedule = s.schedule := by
  unfold useReset; split <;> rfl
@[simp] theorem useReset_moved (s : State) : (useReset s).moved = s.moved := by
  unfold useReset; split <;> rfl

/-! `useTimeout` -/

@[simp] theorem useTimeout_cfg (s : State) : (useTimeout s).cfg = s.cfg := by
  unfold useTimeout; split <;> rfl
@[simp] theorem useTimeout_started (s : State) : (useTimeout s).started = s.started := by
  unfold useTimeout; split <;> rfl
@[simp] theorem useTimeout_alive (s : State) : (useTimeout s).alive = s.alive := by
  unfold useTimeout; split <;> rfl
@[simp] theorem useTimeout_stopNotified (s : State) : (useTimeout s).stopNotified = s.stopNotified := by
  unfold useTimeout; split <;> rfl
@[simp] theorem useTimeout_timeSynced (s : State) : (useTimeout s).timeSynced = s.timeSynced := by
  unfold useTimeout; split <;> rfl
@[simp] theorem useTimeout_readCount (s : State) : (useTimeout s).readCount = s.readCount := by
  unfold useTimeout; split <;> rfl
@[simp] theorem useTimeout_paramIssued (s : State) : (useTimeout s).paramIssued = s.paramIssued := by
  unfold useTimeout; split <;> rfl
@[simp] theorem useTimeout_ufault (s : State) : (useTimeout s).ufault = s.ufault := by
  unfold useTimeout; split <;> rfl
@[simp] theorem useTimeout_rxState (s : State) : (useTimeout s).rxState = s.rxState := by
  unfold useTimeout; split <;> rfl
@[simp] theorem useTimeout_rxCmd (s : State) : (useTimeout s).rxCmd = s.rxCmd := by
  unfold useTimeout; split <;> rfl
@[simp] theorem useTimeout_rxLen (s : State) : (useTimeout s).rxLen = s.rxLen := by
  unfold useTimeout; split <;> rfl
@[simp] theorem useTimeout_rxIdx (s : State) : (useTimeout s).rxIdx = s.rxIdx := by
  unfold useTimeout; split <;> rfl
@[simp] theorem useTimeout_rxBuf (s : State) : (useTimeout s).rxBuf = s.rxBuf := by
  unfold useTimeout; split <;> rfl
@[simp] theorem useTimeout_ssPhase (s : State) : (useTimeout s).ssPhase = s.ssPhase := by
  unfold useTimeout; split <;> rfl
@[simp] theorem useTimeout_txState (s : State) : (useTimeout s).txState = s.txState := by
  unfold useTimeout; split <;> rfl
@[simp] theorem useTimeout_txCur (s : State) : (useTimeout s).txCur = s.txCur := by
  unfold useTimeout; split <;> rfl
@[simp] theorem useTimeout_txOff (s : State) : (useTimeout s).txOff = s.txOff := by
  unfold useTimeout; split <;> rfl
@[simp] theorem useTimeout_queue (s : State) : (useTimeout s).queue = s.queue := by
  unfold useTimeout; split <;> rfl
@[simp] theorem useTimeout_rxFifo (s : State) : (useTimeout s).rxFifo = s.rxFifo := by
  unfold useTimeout; split <;> rfl
@[simp] theorem useTimeout_txWire (s : State) : (useTimeout s).txWire = s.txWire := by
  unfold useTimeout; split <;> rfl
@[simp] theorem useTimeout_events (s : State) : (useTimeout s).events = s.events := by
  unfold useTimeout; split <;> rfl
@[simp] theorem useTimeout_hostStatus (s : State) : (useTimeout s).hostStatus = s.hostStatus := by
  unfold useTimeout; split <;> rfl
@[simp] theorem useTimeout_schedule (s : State) : (useTimeout s).schedule = s.schedule := by
  unfold useTimeout; split <;> rfl
@[simp] theorem useTimeout_moved (s : State) : (useTimeout s).moved = s.moved := by
  unfold useTimeout; split <;> rfl

end Sys2Proof.Laws
end

