-- ==== Sys2Proof/Laws/Ops.lean ====
section
/-! SUPPORT. What each shared operation can do, said once: enabling, draws, taking an exception, the end of a dispatch, the
Reader's and the Writer's steps. -/

namespace Sys2Proof.Laws

open Sys2Proof.Machine

/-! ### Enabling -/

/-- An enabled step is taken. -/
theorem whenEnabled_taken {b : Bool} {s t : State} (hu : s.ufault = none) (hb : b = true) :
    whenEnabled b s t = .next t := by simp [whenEnabled, hu, hb]

/-- A step that is not enabled changes nothing. -/
theorem whenEnabled_notTaken {b : Bool} {s t : State} (hu : s.ufault = none) (hb : b = false) :
    whenEnabled b s t = .next s := by simp [whenEnabled, hu, hb]

/-- After Unspecified behaviour there is no step. -/
theorem whenEnabled_fault {b : Bool} {s t : State} {u : UCode} (hu : s.ufault = some u) :
    whenEnabled b s t = .fault (.unspecified u) := by simp [whenEnabled, hu]

/-- Everything `whenEnabled` can answer as a next state. -/
theorem whenEnabled_cases {b : Bool} {s t r : State} (h : whenEnabled b s t = .next r) :
    s.ufault = none ∧ (b = true ∧ r = t ∨ b = false ∧ r = s) := by
  unfold whenEnabled at h
  split at h
  · cases h
  · rename_i hu
    cases b <;> simp_all

theorem rxMayStep_iff (s : State) :
    rxMayStep s = true ↔ s.ufault = none ∧ s.rxState ≠ .halt ∧
      (s.cfg.mode = .threaded ∧ s.started = true ∨ s.cfg.mode = .singleStep ∧ s.ssPhase = .decode) := by
  unfold rxMayStep
  cases s.cfg.mode <;> simp [and_assoc]

theorem txMayStep_iff (s : State) :
    txMayStep s = true ↔ s.ufault = none ∧ s.txState ≠ .halt ∧
      (s.cfg.mode = .threaded ∧ s.started = true ∨ s.cfg.mode = .singleStep ∧ s.ssPhase = .write) := by
  unfold txMayStep
  cases s.cfg.mode <;> simp [and_assoc]

theorem hostMayCall_iff (s : State) : hostMayCall s = true ↔ s.ssPhase = .none := by simp [hostMayCall]

theorem rxAtDispatch_iff (s : State) : rxAtDispatch s = true ↔ rxMayStep s = true ∧ s.rxState = .dispatch := by
  simp [rxAtDispatch]

theorem txWriting_iff (s : State) :
    txWriting s = true ↔ txMayStep s = true ∧ s.txState = .busy ∧ s.txOff < s.txCur.length := by
  simp [txWriting, and_assoc]

/-- RX's optional exit: after a stop in THREADED mode, at a read-step boundary and not in a wait. -/
theorem rxMayExit_iff (s : State) :
    rxMayExit s = true ↔ rxMayStep s = true ∧ s.cfg.mode = .threaded ∧ s.alive = false ∧ atReadBoundary s = true ∧
      rxWaiting s = false := by
  simp [rxMayExit, and_assoc]

/-- TX's optional exit: after a stop in THREADED mode, between partial writes. -/
theorem txMayExit_iff (s : State) :
    txMayExit s = true ↔ txMayStep s = true ∧ s.cfg.mode = .threaded ∧ s.alive = false ∧ s.txState = .busy := by
  simp [txMayExit, and_assoc]

/-- RX waits in a read state other than `R_SYNC1` with nothing pending. -/
theorem rxWaiting_iff (s : State) :
    rxWaiting s = true ↔
      s.rxFifo = [] ∧ s.rxState ≠ .sync1 ∧ s.rxState ≠ .dispatch ∧ s.rxState ≠ .halt := by
  unfold rxWaiting
  cases s.rxState <;> simp

/-- A time-sync call is pending only in `R_DISPATCH` of command 0x01 with eight payload bytes. -/
theorem sysTimeCalled_cases {s : State} (h : sysTimeCalled s = true) :
    rxAtDispatch s = true ∧ classify s.rxCmd = .timeSync ∧ (rxPayload s).length = 8 := by
  simp only [sysTimeCalled, Bool.and_eq_true, beq_iff_eq] at h
  exact ⟨h.1.1, h.1.2, by simp [rxPayload, h.2]⟩

/-! ### Draws -/

/-- An answer put first is the next one used. -/
@[simp] theorem nextSysTime_offer (a : SysTimeAnswer) (s : State) : nextSysTime (offerSysTime a s) = a := rfl

/-- Using it gives the state back. -/
@[simp] theorem useSysTime_offer (a : SysTimeAnswer) (s : State) : useSysTime (offerSysTime a s) = s := rfl

/-- The trace does not decide an answer. -/
@[simp] theorem nextSysTime_emit (e : Event) (s : State) : nextSysTime (emit e s) = nextSysTime s := rfl

@[simp] theorem nextCall_emit (e : Event) (s : State) : nextCall (emit e s) = nextCall s := rfl

@[simp] theorem nextReset_emit (e : Event) (s : State) : nextReset (emit e s) = nextReset s := rfl

@[simp] theorem nextTimeout_emit (e : Event) (s : State) : nextTimeout (emit e s) = nextTimeout s := rfl

/-- Everything a Delegate call can do: the event is made, and it succeeds or fails. -/
theorem callDelegate_cases (e : DelCall) (s : State) :
    callDelegate e s = (useCall (emit (.del e) s), .done) ∨
    callDelegate e s = (useCall (emit (.del e) s), .raised e) := by
  unfold callDelegate
  cases nextCall s
  · exact .inl rfl
  · exact .inr rfl

/-! ### Exceptions and endings -/

theorem takeRxException_threaded (x : RxException) {s : State} (h : s.cfg.mode = .threaded) :
    takeRxException x s = haltRx (exceptionDiag x s) := by simp [takeRxException, h]

theorem takeRxException_singleStep (x : RxException) {s : State} (h : s.cfg.mode = .singleStep) :
    takeRxException x s = { s with rxState := .sync1, ssPhase := .write } := by simp [takeRxException, endAttempt, h]

/-- Everything an exception does to the trace before `Stop()`: at most one diagnostic. -/
theorem exceptionDiag_cases (x : RxException) (s : State) :
    exceptionDiag x s = s ∨ ∃ d, exceptionDiag x s = diag d s := by
  cases x
  · exact .inr ⟨_, rfl⟩
  · exact .inl rfl
  · exact .inr ⟨_, rfl⟩

/-- `Stop()` run twice is `Stop()` run once (R187). -/
@[simp] theorem stopBlock_stopBlock (s : State) : stopBlock (stopBlock s) = stopBlock s := by
  unfold stopBlock
  by_cases h : s.stopNotified <;> simp [h]

/-! ### The Reader's bytes -/

/-- Everything RX can do in `readerStep`: exit, poll, wait, or take the byte at the head of `rx_fifo`. -/
theorem readerStep_cases (s : State) :
    (rxExitsAtBoundary s = true ∧ readerStep s = haltRx s) ∨
    (rxExitsAtBoundary s = false ∧ s.rxFifo = [] ∧ readerStep s = readNothing s) ∨
    (∃ b rest, rxExitsAtBoundary s = false ∧ s.rxFifo = b :: rest ∧ readerStep s = readByte b rest s) := by
  unfold readerStep
  by_cases hx : rxExitsAtBoundary s
  · exact .inl ⟨hx, by simp [hx]⟩
  · cases hf : s.rxFifo with
    | nil => exact .inr (.inl ⟨by simpa using hx, rfl, by simp [hx]⟩)
    | cons b rest => exact .inr (.inr ⟨b, rest, by simpa using hx, rfl, by simp [hx]⟩)

/-- Storing a payload byte at its position makes the payload read so far one byte longer (R132). -/
theorem memPrefix_storePayload (b : Byte) (s : State) (h : s.rxBuf.wf = true) :
    memPrefix (storePayload b s).rxBuf (s.rxIdx.toNat + 1) = memPrefix s.rxBuf s.rxIdx.toNat ++ [b] := by
  rw [memPrefix_succ, storePayload_rxBuf, memPrefix_memWrite _ _ (le_refl _), memRead_memWrite_same _ _ _ h]

/-- A stored payload byte keeps the buffer canonical: its position is below the length (R61). -/
theorem wf_storePayload (b : Byte) (s : State) (h : s.rxBuf.wf = true) (hi : s.rxIdx < s.rxLen) :
    (storePayload b s).rxBuf.wf = true := by
  have h1 : s.rxIdx.toNat < s.rxLen.toNat := hi
  have h2 := s.rxLen.isLt
  exact wf_memWrite _ _ h (by show _ < 65535; omega)

end Sys2Proof.Laws
end

