-- ==== Sys2Proof/Laws/Forms.lean ====
section
/-! SUPPORT. The shared operations that branch, each as ONE record update in the words of Safety.lean, so that a proof about
an instruction's result never splits them. -/

namespace Sys2Proof.Laws

open Sys2Proof.Machine

/-- `Stop()` as one update (R180). -/
theorem stopBlock_eq (s : State) :
    stopBlock s = { s with alive := false, stopNotified := true, events := s.events ++ stopEvents s } := by
  ext1 <;> simp [stopEvents]
  split <;> simp

/-- The end of a decode attempt as one update (R185). -/
theorem endAttempt_eq (s : State) : endAttempt s = { s with rxState := .sync1, ssPhase := phaseAfterAttempt s } := by
  ext1 <;> simp [phaseAfterAttempt]

/-- The end of a write cycle as one update (R186). -/
theorem endWriteCycle_eq (s : State) :
    endWriteCycle s = { s with ssPhase := if s.cfg.mode = .singleStep then .none else s.ssPhase } := by
  ext1 <;> simp

/-- RX's halt as one update (R161 to R163). -/
theorem haltRx_eq (s : State) : haltRx s =
    { s with alive := false, stopNotified := true, events := s.events ++ stopEvents s, rxState := .halt } := by
  rw [haltRx, stopBlock_eq]

/-- TX's halt as one update (R171, R175 to R177). -/
theorem haltTx_eq (s : State) : haltTx s =
    { s with alive := false, stopNotified := true, events := s.events ++ stopEvents s, txState := .halt } := by
  rw [haltTx, stopBlock_eq]

/-- Raising Unspecified as one update (R14). -/
theorem raiseUnspecified_eq (u : UCode) {s : State} (h : s.ufault = none) :
    raiseUnspecified u s = { s with ufault := some u } := by
  simp [raiseUnspecified, h]

/-- Counting as one update (R133, R136). -/
theorem countRead_eq (q : ReadCountPoint) (s : State) : countRead q s =
    { s with readCount := if s.cfg.readCountPoint = q then s.readCount + s.rxLen.toNat else s.readCount } := by
  ext1 <;> simp

/-- Using an answer changes the draws only. -/
theorem useCall_eq (s : State) : useCall s = { s with draws := (useCall s).draws } := by ext1 <;> simp

theorem useSysTime_eq (s : State) : useSysTime s = { s with draws := (useSysTime s).draws } := by ext1 <;> simp

theorem useReset_eq (s : State) : useReset s = { s with draws := (useReset s).draws } := by ext1 <;> simp

theorem useTimeout_eq (s : State) : useTimeout s = { s with draws := (useTimeout s).draws } := by ext1 <;> simp

/-- Which draws are left does not depend on anything but the draws. -/
theorem useCall_draws_of_draws {s t : State} (h : s.draws = t.draws) : (useCall s).draws = (useCall t).draws := by
  unfold useCall
  rw [h]
  split <;> simp_all

theorem useSysTime_draws_of_draws {s t : State} (h : s.draws = t.draws) :
    (useSysTime s).draws = (useSysTime t).draws := by
  unfold useSysTime
  rw [h]
  split <;> simp_all

theorem useReset_draws_of_draws {s t : State} (h : s.draws = t.draws) : (useReset s).draws = (useReset t).draws := by
  unfold useReset
  rw [h]
  split <;> simp_all

theorem useTimeout_draws_of_draws {s t : State} (h : s.draws = t.draws) :
    (useTimeout s).draws = (useTimeout t).draws := by
  unfold useTimeout
  rw [h]
  split <;> simp_all

theorem nextCall_of_draws {s t : State} (h : s.draws = t.draws) : nextCall s = nextCall t := by simp [nextCall, h]

theorem nextSysTime_of_draws {s t : State} (h : s.draws = t.draws) : nextSysTime s = nextSysTime t := by
  simp [nextSysTime, h]

theorem nextReset_of_draws {s t : State} (h : s.draws = t.draws) : nextReset s = nextReset t := by
  simp [nextReset, h]

theorem nextTimeout_of_draws {s t : State} (h : s.draws = t.draws) : nextTimeout s = nextTimeout t := by
  simp [nextTimeout, h]

end Sys2Proof.Laws
end

