-- ==== Sys2Proof/Laws/Moves.lean ====
section
/-! SUPPORT. What one step of the machine can do, said once: if `step` answers a next state, then the move was not enabled and
only the schedule advanced, or one of the effects below was made. Every invariant is derived from this. -/

namespace Sys2Proof.Laws

open Sys2Proof.Machine

/-- The effects a move can have, each with what enables it. -/
inductive Effect (s : State) : State → Prop
  | unknown (c : Byte) (p : List Byte) (hu : s.ufault = none) (h : rxAtDispatch s = true) :
      Effect s (endDispatch (unknownActions c p s))
  | publish (c : Byte) (p : List Byte) (hu : s.ufault = none) (h : rxAtDispatch s = true) :
      Effect s (endDispatch (publishActions c p s))
  | log (l : LogLevel) (p : List Byte) (hu : s.ufault = none) (h : rxAtDispatch s = true) :
      Effect s (endDispatch (logActions l p s))
  | param (p : List Byte) (hu : s.ufault = none) (h : rxAtDispatch s = true) :
      Effect s (endDispatch (paramActions p s))
  | timeSync (p : List Byte) (hu : s.ufault = none) (h : rxAtDispatch s = true) :
      Effect s (endDispatch (timeSyncActions p s))
  | sysTime (a : SysTimeAnswer) (hu : s.ufault = none) (h : sysTimeCalled s = true) :
      Effect s (endDispatch (timeSyncActions (rxPayload s) (offerSysTime a s)))
  | start (hu : s.ufault = none) (h : hostMayCall s = true) : Effect s (startActions s)
  | stop (hu : s.ufault = none) (h : hostMayCall s = true) : Effect s (stopBlock s)
  | send (c : Byte) (p : List Byte) (hu : s.ufault = none) (h : hostMayCall s = true) : Effect s (sendFrame c p s)
  | call (hu : s.ufault = none) (h : hostMayCall s = true) : Effect s (stepActions s)
  | status : Effect s { s with hostStatus := some (status s) }
  | byte (b : Byte) : Effect s { s with rxFifo := s.rxFifo ++ [b] }
  | timeout (hu : s.ufault = none) (h : rxMayStep s = true) (hw : rxWaiting s = true) :
      Effect s (takeRxException (.timeout s.rxState (waitPosition s)) s)
  | ioErr (hu : s.ufault = none) (h : rxMayStep s = true) (hc : rxCallsTransport s = true) :
      Effect s (takeRxException .ioErr s)
  | write (a : WriteAnswer) (hu : s.ufault = none) (h : txWriting s = true) (hf : answerFits a (txRemaining s) = true) :
      Effect s (txAnswered a s)
  | result (k : Nat) (values : List Word) (hu : s.ufault = none) (h : k < s.paramIssued) :
      Effect s (sendFrame 0x08#8 (wordsBytes values) s)
  | reader (hu : s.ufault = none) (h : rxMayStep s = true) (hd : s.rxState ≠ .dispatch) : Effect s (readerStep s)
  | rxExit (hu : s.ufault = none) (h : rxMayExit s = true) : Effect s (haltRx s)
  | writer (hu : s.ufault = none) (h : txMayStep s = true) : Effect s (writerStep s)
  | txExit (hu : s.ufault = none) (h : txMayExit s = true) : Effect s (haltTx s)

/-- One shape of argument for every meaning built on `whenEnabled`. -/
theorem effect_of_whenEnabled {b : Bool} {s t r : State} (h : whenEnabled b s t = .next r)
    (he : s.ufault = none → b = true → Effect s t) : r = s ∨ Effect s r := by
  obtain ⟨hu, ⟨hb, rfl⟩ | ⟨-, rfl⟩⟩ := whenEnabled_cases h
  · exact .inr (he hu hb)
  · exact .inl rfl

/-- Everything an instruction can do. -/
theorem exec_effect {i : Instr} {s t : State} (h : exec i s = .next t) : t = s ∨ Effect s t := by
  cases i with
  | unknown00 p => exact effect_of_whenEnabled h fun hu hb => .unknown _ _ hu hb
  | unknown0607 l p => exact effect_of_whenEnabled h fun hu hb => .unknown _ _ hu hb
  | unknown09 p => exact effect_of_whenEnabled h fun hu hb => .unknown _ _ hu hb
  | unknown0A0B l p => exact effect_of_whenEnabled h fun hu hb => .unknown _ _ hu hb
  | unknown0C0F l p => exact effect_of_whenEnabled h fun hu hb => .unknown _ _ hu hb
  | publish101F l p => exact effect_of_whenEnabled h fun hu hb => .publish _ _ hu hb
  | publish203F l p => exact effect_of_whenEnabled h fun hu hb => .publish _ _ hu hb
  | publish407F l p => exact effect_of_whenEnabled h fun hu hb => .publish _ _ hu hb
  | publish80FF l p => exact effect_of_whenEnabled h fun hu hb => .publish _ _ hu hb
  | logDebug p => exact effect_of_whenEnabled h fun hu hb => .log _ _ hu hb
  | logInfo p => exact effect_of_whenEnabled h fun hu hb => .log _ _ hu hb
  | logWarn p => exact effect_of_whenEnabled h fun hu hb => .log _ _ hu hb
  | logError p => exact effect_of_whenEnabled h fun hu hb => .log _ _ hu hb
  | paramReq p => exact effect_of_whenEnabled h fun hu hb => .param _ hu hb
  | timeSync p => exact effect_of_whenEnabled h fun hu hb => .timeSync _ hu hb
  | start => exact effect_of_whenEnabled h fun hu hb => .start hu hb
  | stop => exact effect_of_whenEnabled h fun hu hb => .stop hu hb
  | sendCommand c p => exact effect_of_whenEnabled h fun hu hb => .send _ _ hu hb
  | step => exact effect_of_whenEnabled h fun hu hb => .call hu hb
  | statusRead => cases h; exact .inr .status
  | xptByte b => cases h; exact .inr (.byte b)
  | xptTimeout =>
    refine effect_of_whenEnabled h fun hu hb => ?_
    rw [Bool.and_eq_true] at hb
    exact .timeout hu hb.1 hb.2
  | xptIoerr =>
    refine effect_of_whenEnabled h fun hu hb => ?_
    rw [Bool.and_eq_true] at hb
    exact .ioErr hu hb.1 hb.2
  | xptWriteAnswer a =>
    refine effect_of_whenEnabled h fun hu hb => ?_
    rw [Bool.and_eq_true] at hb
    exact .write a hu hb.1 hb.2
  | delSystimeAnswer a => exact effect_of_whenEnabled h fun hu hb => .sysTime a hu hb
  | delParamResult k v => exact effect_of_whenEnabled h fun hu hb => .result k v hu (of_decide_eq_true hb)

/-- Everything a move can do. -/
theorem runMove_effect {m : Move} {s t : State} (h : runMove m s = .next t) : t = s ∨ Effect s t := by
  cases m with
  | rx =>
    simp only [runMove, rxMove] at h
    split at h
    · exact exec_effect h
    · exact effect_of_whenEnabled h fun hu hb => .reader hu hb ‹_›
  | rxExit => exact effect_of_whenEnabled h fun hu hb => .rxExit hu hb
  | tx => exact effect_of_whenEnabled h fun hu hb => .writer hu hb
  | txExit => exact effect_of_whenEnabled h fun hu hb => .txExit hu hb
  | input i =>
    simp only [runMove, inputMove] at h
    split at h
    · exact exec_effect h
    · cases h; exact .inl rfl

/-- Everything a step can do. -/
theorem step_effect {s t : State} (h : step s = .next t) : t = takeMove s ∨ Effect (takeMove s) t :=
  runMove_effect h

/-- A schedule that names a move decides the next move. -/
theorem nextMove_cons {s : State} {m : Move} {ms : List Move} (h : s.schedule = m :: ms) : nextMove s = m := by
  simp [nextMove, h]

end Sys2Proof.Laws
end

