-- ==== Sys2Proof/Laws/PerInstr.lean ====
section
/-! SUPPORT. A statement about each instruction as data: the command map reads a frame instruction's command byte back as
that instruction, and gives it the class of R90; a port operation has no frame and no class (R96, R97). -/

namespace Sys2Proof.Laws.CommandMap

/-- The command map and the instruction agree (R90, R91). -/
def Statement (i : Instr) : Prop :=
  match i.frame with
  | some (c, p) => i.isPort = false ∧ instrOf c p = i ∧ i.commandClass = some (classify c)
  | none => i.isPort = true ∧ i.commandClass = none

/-- The same frame instruction with another payload. -/
def withPayload (p : List Byte) : Instr → Instr
  | .unknown00 _ => .unknown00 p
  | .timeSync _ => .timeSync p
  | .logDebug _ => .logDebug p
  | .logInfo _ => .logInfo p
  | .logWarn _ => .logWarn p
  | .logError _ => .logError p
  | .unknown0607 l _ => .unknown0607 l p
  | .paramReq _ => .paramReq p
  | .unknown09 _ => .unknown09 p
  | .unknown0A0B l _ => .unknown0A0B l p
  | .unknown0C0F l _ => .unknown0C0F l p
  | .publish101F l _ => .publish101F l p
  | .publish203F l _ => .publish203F l p
  | .publish407F l _ => .publish407F l p
  | .publish80FF l _ => .publish80FF l p
  | .start => .start
  | .stop => .stop
  | .sendCommand c q => .sendCommand c q
  | .step => .step
  | .statusRead => .statusRead
  | .xptByte b => .xptByte b
  | .xptTimeout => .xptTimeout
  | .xptIoerr => .xptIoerr
  | .xptWriteAnswer a => .xptWriteAnswer a
  | .delSystimeAnswer a => .delSystimeAnswer a
  | .delParamResult k v => .delParamResult k v

theorem ite_withPayload {c : Prop} [Decidable c] {p : List Byte} {a b a' b' : Instr} (ha : a = withPayload p a')
    (hb : b = withPayload p b') : (if c then a else b) = withPayload p (if c then a' else b') := by
  by_cases h : c
  · rw [if_pos h, if_pos h, ha]
  · rw [if_neg h, if_neg h, hb]

/-- Which row a command selects does not depend on the payload. -/
theorem instrOf_withPayload (c : Byte) (p : List Byte) : instrOf c p = withPayload p (instrOf c []) := by
  unfold instrOf
  iterate 14 refine ite_withPayload rfl ?_
  rfl

theorem instrOf_payload {c : Byte} {i : Instr} (h : instrOf c [] = i) (p : List Byte) : instrOf c p = withPayload p i := by
  rw [instrOf_withPayload, h]

theorem unknown00 (p : List Byte) : Statement (.unknown00 p) := ⟨rfl, rfl, rfl⟩

theorem timeSync (p : List Byte) : Statement (.timeSync p) := ⟨rfl, rfl, rfl⟩

theorem logDebug (p : List Byte) : Statement (.logDebug p) := ⟨rfl, rfl, rfl⟩

theorem logInfo (p : List Byte) : Statement (.logInfo p) := ⟨rfl, rfl, rfl⟩

theorem logWarn (p : List Byte) : Statement (.logWarn p) := ⟨rfl, rfl, rfl⟩

theorem logError (p : List Byte) : Statement (.logError p) := ⟨rfl, rfl, rfl⟩

theorem unknown0607 (low : BitVec 1) (p : List Byte) : Statement (.unknown0607 low p) := by
  have h : ∀ low : BitVec 1, instrOf (0b0000011#7 ++ low) [] = .unknown0607 low [] ∧ classify (0b0000011#7 ++ low) = .unknown := by decide
  exact ⟨rfl, instrOf_payload (h low).1 p, congrArg some (h low).2.symm⟩

theorem paramReq (p : List Byte) : Statement (.paramReq p) := ⟨rfl, rfl, rfl⟩

theorem unknown09 (p : List Byte) : Statement (.unknown09 p) := ⟨rfl, rfl, rfl⟩

theorem unknown0A0B (low : BitVec 1) (p : List Byte) : Statement (.unknown0A0B low p) := by
  have h : ∀ low : BitVec 1, instrOf (0b0000101#7 ++ low) [] = .unknown0A0B low [] ∧ classify (0b0000101#7 ++ low) = .unknown := by decide
  exact ⟨rfl, instrOf_payload (h low).1 p, congrArg some (h low).2.symm⟩

theorem unknown0C0F (low : BitVec 2) (p : List Byte) : Statement (.unknown0C0F low p) := by
  have h : ∀ low : BitVec 2, instrOf (0b000011#6 ++ low) [] = .unknown0C0F low [] ∧ classify (0b000011#6 ++ low) = .unknown := by decide
  exact ⟨rfl, instrOf_payload (h low).1 p, congrArg some (h low).2.symm⟩

theorem publish101F (low : BitVec 4) (p : List Byte) : Statement (.publish101F low p) := by
  have h : ∀ low : BitVec 4, instrOf (0b0001#4 ++ low) [] = .publish101F low [] ∧ classify (0b0001#4 ++ low) = .publish := by decide
  exact ⟨rfl, instrOf_payload (h low).1 p, congrArg some (h low).2.symm⟩

theorem publish203F (low : BitVec 5) (p : List Byte) : Statement (.publish203F low p) := by
  have h : ∀ low : BitVec 5, instrOf (0b001#3 ++ low) [] = .publish203F low [] ∧ classify (0b001#3 ++ low) = .publish := by decide
  exact ⟨rfl, instrOf_payload (h low).1 p, congrArg some (h low).2.symm⟩

theorem publish407F (low : BitVec 6) (p : List Byte) : Statement (.publish407F low p) := by
  have h : ∀ low : BitVec 6, instrOf (0b01#2 ++ low) [] = .publish407F low [] ∧ classify (0b01#2 ++ low) = .publish := by decide
  exact ⟨rfl, instrOf_payload (h low).1 p, congrArg some (h low).2.symm⟩

theorem publish80FF (low : BitVec 7) (p : List Byte) : Statement (.publish80FF low p) := by
  have h : ∀ low : BitVec 7, instrOf (0b1#1 ++ low) [] = .publish80FF low [] ∧ classify (0b1#1 ++ low) = .publish := by decide
  exact ⟨rfl, instrOf_payload (h low).1 p, congrArg some (h low).2.symm⟩

theorem start : Statement (.start) := ⟨rfl, rfl⟩

theorem stop : Statement (.stop) := ⟨rfl, rfl⟩

theorem sendCommand (c : Byte) (p : List Byte) : Statement (.sendCommand c p) := ⟨rfl, rfl⟩

theorem step : Statement (.step) := ⟨rfl, rfl⟩

theorem statusRead : Statement (.statusRead) := ⟨rfl, rfl⟩

theorem xptByte (b : Byte) : Statement (.xptByte b) := ⟨rfl, rfl⟩

theorem xptTimeout : Statement (.xptTimeout) := ⟨rfl, rfl⟩

theorem xptIoerr : Statement (.xptIoerr) := ⟨rfl, rfl⟩

theorem xptWriteAnswer (a : WriteAnswer) : Statement (.xptWriteAnswer a) := ⟨rfl, rfl⟩

theorem delSystimeAnswer (a : SysTimeAnswer) : Statement (.delSystimeAnswer a) := ⟨rfl, rfl⟩

theorem delParamResult (k : Nat) (values : List Word) : Statement (.delParamResult k values) := ⟨rfl, rfl⟩

end Sys2Proof.Laws.CommandMap
end

