-- ==== Sys2Proof/Tests/Slice0.lean ====
section
/-! SUPPORT. Tests of the model on the vectors of spec/95_test_vectors.md, each named in its comment, and a witness for the
hypotheses of every obligation that has any. -/

namespace Sys2Proof.Tests

open Sys2Proof.Machine

/-! ### WellFormed -/

/-- The check of one frame row, as a number. -/
theorem wellFormed_publish101F (l : BitVec 4) (p : List Byte) :
    (Instr.publish101F l p).wellFormed = decide (p.length ≤ 65535) := rfl

/-- R81: 65536 payload bytes do not fit a 16-bit length. -/
theorem test_wellFormed_refuses_long : (Instr.publish101F 0#4 (List.replicate 65536 0#8)).wellFormed = false := by
  rw [wellFormed_publish101F, List.length_replicate]; decide

/-- R81: 65535 payload bytes do. -/
theorem test_wellFormed_accepts_longest : (Instr.publish101F 0#4 (List.replicate 65535 0#8)).wellFormed = true := by
  rw [wellFormed_publish101F, List.length_replicate]; decide

/-- R96, R97: a port operation carries no length field; `send_command` takes any payload. -/
theorem test_wellFormed_port : (Instr.sendCommand 0x10#8 (List.replicate 65536 0#8)).wellFormed = true := rfl

/-! ### Decoding: a frame written out for every frame row -/

/-- V-DSP-11. -/
theorem test_decode_unknown00 :
    decode [0xAA#8, 0xAA#8, 0x00#8, 0x00#8, 0x00#8, 0xFF#8] = .ok (.unknown00 [], []) := rfl

/-- V-SYNC-3. -/
theorem test_decode_timeSync :
    decode [0xAA#8, 0xAA#8, 0x01#8, 0x08#8, 0x00#8, 0x0A#8, 0x00#8, 0x00#8, 0x00#8, 0xC0#8, 0x87#8, 0x8B#8, 0x3B#8, 0xE8#8]
      = .ok (.timeSync [0x0A#8, 0x00#8, 0x00#8, 0x00#8, 0xC0#8, 0x87#8, 0x8B#8, 0x3B#8], []) := rfl

/-- V-DSP-1. -/
theorem test_decode_logDebug :
    decode [0xAA#8, 0xAA#8, 0x02#8, 0x00#8, 0x00#8, 0xFF#8] = .ok (.logDebug [], []) := rfl

/-- V-DEC-4. -/
theorem test_decode_logInfo :
    decode [0xAA#8, 0xAA#8, 0x03#8, 0x05#8, 0x00#8, 0x68#8, 0x65#8, 0x6C#8, 0x6C#8, 0x6F#8, 0xEB#8]
      = .ok (.logInfo [0x68#8, 0x65#8, 0x6C#8, 0x6C#8, 0x6F#8], []) := rfl

/-- V-DSP-2. -/
theorem test_decode_logWarn :
    decode [0xAA#8, 0xAA#8, 0x04#8, 0x01#8, 0x00#8, 0x77#8, 0x88#8] = .ok (.logWarn [0x77#8], []) := rfl

/-- V-DSP-3. -/
theorem test_decode_logError :
    decode [0xAA#8, 0xAA#8, 0x05#8, 0x02#8, 0x00#8, 0x45#8, 0x31#8, 0x89#8] = .ok (.logError [0x45#8, 0x31#8], []) := rfl

/-- V-DSP-9. -/
theorem test_decode_unknown0607 :
    decode [0xAA#8, 0xAA#8, 0x07#8, 0x02#8, 0x00#8, 0x61#8, 0x62#8, 0x3C#8]
      = .ok (.unknown0607 1#1 [0x61#8, 0x62#8], []) := rfl

/-- V-PAR-1. -/
theorem test_decode_paramReq :
    decode [0xAA#8, 0xAA#8, 0x08#8, 0x01#8, 0x00#8, 0x58#8, 0xA7#8] = .ok (.paramReq [0x58#8], []) := rfl

/-- R81, R90: command 0x09, checksum of nothing. -/
theorem test_decode_unknown09 :
    decode [0xAA#8, 0xAA#8, 0x09#8, 0x00#8, 0x00#8, 0xFF#8] = .ok (.unknown09 [], []) := rfl

/-- R81, R90: command 0x0B. -/
theorem test_decode_unknown0A0B :
    decode [0xAA#8, 0xAA#8, 0x0B#8, 0x00#8, 0x00#8, 0xFF#8] = .ok (.unknown0A0B 1#1 [], []) := rfl

/-- V-DSP-10. -/
theorem test_decode_unknown0C0F :
    decode [0xAA#8, 0xAA#8, 0x0F#8, 0x01#8, 0x00#8, 0x01#8, 0xFE#8] = .ok (.unknown0C0F 3#2 [0x01#8], []) := rfl

/-- V-DEC-5: a marker byte inside a payload is raw. -/
theorem test_decode_publish101F :
    decode [0xAA#8, 0xAA#8, 0x13#8, 0x03#8, 0x00#8, 0xAA#8, 0xAA#8, 0x01#8, 0xAA#8]
      = .ok (.publish101F 3#4 [0xAA#8, 0xAA#8, 0x01#8], []) := rfl

/-- V-DSP-5. -/
theorem test_decode_publish203F :
    decode [0xAA#8, 0xAA#8, 0x20#8, 0x03#8, 0x00#8, 0x01#8, 0x02#8, 0x03#8, 0xF9#8]
      = .ok (.publish203F 0#5 [0x01#8, 0x02#8, 0x03#8], []) := rfl

/-- R81, R90: command 0x7F, the last of its row; the checksum of [01] is FE (V-CS-4). -/
theorem test_decode_publish407F :
    decode [0xAA#8, 0xAA#8, 0x7F#8, 0x01#8, 0x00#8, 0x01#8, 0xFE#8] = .ok (.publish407F 63#6 [0x01#8], []) := rfl

/-- V-DSP-6. -/
theorem test_decode_publish80FF :
    decode [0xAA#8, 0xAA#8, 0xFF#8, 0x00#8, 0x00#8, 0xFF#8] = .ok (.publish80FF 127#7 [], []) := rfl

/-- V-DEC-2, V-DEC-3, V-DEC-14, V-DEC-1 and a wrong checksum (W3): each refused by its name. -/
theorem test_decode_refuses :
    decode [0x01#8] = .error .dropSync1 ∧ decode [0xAA#8, 0x01#8] = .error .dropSync2 ∧
    decode [0xAA#8, 0xAA#8, 0x01#8] = .error .short ∧ decode [] = .error .empty ∧
    decode [0xAA#8, 0xAA#8, 0x06#8, 0x00#8, 0x00#8, 0xFE#8] = .error .dropChecksum := ⟨rfl, rfl, rfl, rfl, rfl⟩

/-- V-DEC-11: a corrupted length swallows the start of the next frame. -/
theorem test_decode1_swallows :
    decode1 [0xAA#8, 0xAA#8, 0x03#8, 0x05#8, 0x00#8, 0x68#8, 0x69#8, 0x2E#8,
        0xAA#8, 0xAA#8, 0x10#8, 0x02#8, 0x00#8, 0x34#8, 0x12#8, 0xB9#8]
      = (.drop .checksum, [0x02#8, 0x00#8, 0x34#8, 0x12#8, 0xB9#8]) := by decide

/-- The encoder gives V-DSP-5's frame (R81). -/
theorem test_encode_frame :
    encode (.publish203F 0#5 [0x01#8, 0x02#8, 0x03#8])
      = some [0xAA#8, 0xAA#8, 0x20#8, 0x03#8, 0x00#8, 0x01#8, 0x02#8, 0x03#8, 0xF9#8] := by decide

/-- A table word: command 0x13 in the row 10..1F, and a longer word with its length and one payload byte (log 13). -/
theorem test_decodeTableWord :
    decodeTableWord 8 0x13 = some (.publish101F 3#4 []) ∧ decodeTableWord 8 0x02 = some (.logDebug []) ∧
    decodeTableWord 32 0x58000108 = some (.paramReq [0x58#8]) := ⟨rfl, rfl, rfl⟩

/-! ### Checksum and encoder vectors -/

/-- V-CS-1, V-CS-3, V-CS-5, V-CS-6, V-CS-9, V-CS-10. -/
theorem test_checksum :
    checksum [] = 0xFF#8 ∧ checksum [0xFF#8] = 0x00#8 ∧
    checksum [0x68#8, 0x65#8, 0x6C#8, 0x6C#8, 0x6F#8] = 0xEB#8 ∧ checksum [0xAA#8, 0xAA#8, 0xAA#8] = 0x01#8 ∧
    checksum [0xFF#8, 0x01#8] = 0xFF#8 ∧
    checksum [0x01#8, 0x00#8, 0x00#8, 0x00#8, 0x02#8, 0x00#8, 0x00#8, 0x00#8] = 0xFC#8 := by decide

/-- V-ENC-4, V-ENC-7. -/
theorem test_encodeTx :
    encodeTx .one 0xFF#8 [0xAA#8, 0xAA#8] = [0xAA#8, 0xAA#8, 0xFF#8, 0x02#8, 0xAA#8, 0xAA#8, 0xAB#8] ∧
    encodeTx .two 0x08#8 (le32bytes 0x12345678#32)
      = [0xAA#8, 0xAA#8, 0x08#8, 0x04#8, 0x00#8, 0x78#8, 0x56#8, 0x34#8, 0x12#8, 0xEB#8] := by decide

/-- V-DSP-4, V-PAR-8 (overlong), a surrogate, the last code point and one past it (RFC 3629). -/
theorem test_utf8 :
    utf8 [0xFF#8] = false ∧ utf8 [0xC0#8, 0x80#8, 0xBF#8] = false ∧ utf8 [0xED#8, 0xA0#8, 0x80#8] = false ∧
    utf8 [0xF4#8, 0x8F#8, 0xBF#8, 0xBF#8] = true ∧ utf8 [0xF4#8, 0x90#8, 0x80#8, 0x80#8] = false := by decide

/-- A byte of value zero is listed nowhere, and writing it removes the entry (log 5). -/
theorem test_memory_canonical :
    memWrite (memWrite [] 3 0x11#8) 1 0x22#8 = [(1, 0x22#8), (3, 0x11#8)] ∧
    memWrite [(1, 0x22#8), (3, 0x11#8)] 1 0x00#8 = [(3, 0x11#8)] ∧ State.reset.rxBuf.wf = true := by decide

/-! ### Small states -/

/-- A started block: THREADED, or in the decode cycle of a single-step call. -/
def block (m : Mode) : State :=
  { State.construct { Params.default with mode := m } [] with
    started := true, alive := true, ssPhase := match m with | .threaded => .none | .singleStep => .decode }

/-- A block with a frame validated, the call and time answers to come, and RX to move. -/
def atDispatch (m : Mode) (c : Byte) (p : List Byte) : State :=
  { block m with
    rxState := .dispatch, rxCmd := c, rxLen := BitVec.ofNat 16 p.length, rxIdx := BitVec.ofNat 16 p.length
    rxBuf := memLoad [] 0 p, draws := ⟨[.time 101#32 500000000#32], [.ok], [.ok], [.continue], 0⟩, schedule := [.rx] }

/-- A block in which the Delegate fails the next call. -/
def failing (s : State) : State := { s with draws := ⟨[.error], [.error], [.fail], [.stop], 0⟩ }

/-- A block in a read state, with bytes pending. -/
def reading (m : Mode) (r : RxState) (idx len : BitVec 16) (bs : List Byte) : State :=
  { block m with rxState := r, rxIdx := idx, rxLen := len, rxFifo := bs, schedule := [.rx] }

/-- The frame `g` of V-TX: `AA AA 08 00 FF`. -/
def frameG : List Byte := [0xAA#8, 0xAA#8, 0x08#8, 0x00#8, 0xFF#8]

/-- A block with TX writing `g`, `off` bytes of it done; in the write cycle of a single-step call where that mode holds. -/
def writing (m : Mode) (p : WrTimeoutPolicy) (off : Nat) : State :=
  { State.construct { Params.default with mode := m, wrTimeoutPolicy := p } [] with
    started := true, alive := true, txState := .busy, txCur := frameG, txOff := off, schedule := [.tx]
    ssPhase := match m with | .threaded => .none | .singleStep => .write
    draws := ⟨[], [], [], [.continue], 0⟩ }

/-- A stopped THREADED block. -/
def stopped (s : State) : State := { s with alive := false, stopNotified := true, events := s.events ++ [.stopped] }

/-- One observation of the next state. -/
def nextIs {α : Type} [DecidableEq α] (o : Host.Outcome State Fault Refusal) (f : State → α) (a : α) : Bool :=
  match o with
  | .next t => f t == a
  | .fault _ | .refused _ => false

/-- `"hello"`. -/
def hello : List Byte := [0x68#8, 0x65#8, 0x6C#8, 0x6C#8, 0x6F#8]

/-- The payload of V-SYNC-1. -/
def sync100 : List Byte := [0x64#8, 0x00#8, 0x00#8, 0x00#8, 0x00#8, 0x00#8, 0x00#8, 0x00#8]

/-! ### One step of each instruction -/

/-- V-DSP-11. -/
theorem test_unknown00 :
    nextIs (step (atDispatch .threaded 0x00#8 [])) (fun t => (t.events, t.rxState))
      ([.diag (.unknownCmd 0x00#8 0)], .sync1) = true := by decide

/-- V-DSP-9. -/
theorem test_unknown0607 :
    nextIs (step (atDispatch .threaded 0x07#8 [0x61#8, 0x62#8])) (·.events) [.diag (.unknownCmd 0x07#8 2)] = true := by
  decide

/-- R230: command 0x09. -/
theorem test_unknown09 :
    nextIs (step (atDispatch .threaded 0x09#8 [0x01#8])) (·.events) [.diag (.unknownCmd 0x09#8 1)] = true := by decide

/-- R230: command 0x0A, single-step: the write cycle is next (R185). -/
theorem test_unknown0A0B :
    nextIs (step (atDispatch .singleStep 0x0A#8 [])) (fun t => (t.events, t.ssPhase))
      ([.diag (.unknownCmd 0x0A#8 0)], .write) = true := by decide

/-- V-DSP-10. -/
theorem test_unknown0C0F :
    nextIs (step (atDispatch .threaded 0x0F#8 [0x01#8])) (·.events) [.diag (.unknownCmd 0x0F#8 1)] = true := by decide

/-- V-SYNC-1 (W5). -/
theorem test_timeSync :
    nextIs (step (atDispatch .threaded 0x01#8 sync100)) (fun t => (t.events, t.queue, t.timeSynced))
      ([.del .sysTime, .diag (.timeOffset 1500)],
        [[0xAA#8, 0xAA#8, 0x01#8, 0x08#8, 0x65#8, 0x00#8, 0x00#8, 0x00#8, 0x00#8, 0x65#8, 0xCD#8, 0x1D#8, 0x4B#8]],
        true) = true := by decide

/-- V-SYNC-8. -/
theorem test_timeSync_fails :
    nextIs (step (failing (atDispatch .threaded 0x01#8 sync100))) (fun t => (t.events, t.queue, t.timeSynced, t.rxState))
      ([.del .sysTime, .diag (.rxOther .sysTime), .stopped], [], false, .halt) = true := by decide

/-- V-SYNC-4, both values of `TIME_SIGNED`; V-SYNC-6, not rounded. -/
theorem test_diffMs :
    diffMs true 101#32 500000000#32 0xFFFFFFFF#32 0#32 = 102500 ∧
    diffMs false 101#32 500000000#32 0xFFFFFFFF#32 0#32 = -4294967193500 ∧
    diffMs false 0#32 0#32 0#32 1#32 = mkRat (-1) 1000000 := by decide

/-- V-DSP-1. -/
theorem test_logDebug :
    nextIs (step (atDispatch .threaded 0x02#8 [])) (·.events) [.del (.log .debug [])] = true := by decide

/-- W7: exactly one call, text unchanged. -/
theorem test_logInfo :
    nextIs (step (atDispatch .threaded 0x03#8 hello)) (·.events) [.del (.log .info hello)] = true := by decide

/-- V-RXL-9. -/
theorem test_logInfo_fails :
    nextIs (step (failing (atDispatch .threaded 0x03#8 hello))) (fun t => (t.events, t.rxState))
      ([.del (.log .info hello), .diag (.rxOther (.log .info hello)), .stopped], .halt) = true := by decide

/-- V-DSP-2. -/
theorem test_logWarn :
    nextIs (step (atDispatch .threaded 0x04#8 [0x77#8])) (·.events) [.del (.log .warn [0x77#8])] = true := by decide

/-- V-DSP-3; and V-DSP-4 with its code: U_TEXT, no event. -/
theorem test_logError :
    nextIs (step (atDispatch .threaded 0x05#8 [0x45#8, 0x31#8])) (·.events) [.del (.log .error [0x45#8, 0x31#8])] = true ∧
    nextIs (step (atDispatch .threaded 0x05#8 [0xFF#8])) (fun t => (t.events, t.ufault)) ([], some .text) = true := by
  decide

/-- V-PAR-1. -/
theorem test_paramReq :
    nextIs (step (atDispatch .threaded 0x08#8 [0x58#8])) (fun t => (t.events, t.paramIssued, t.queue))
      ([.del (.getParam 0 [0x58#8])], 1, []) = true := by decide

/-- V-DSP-7. -/
theorem test_publish101F :
    nextIs (step (atDispatch .threaded 0x17#8 [0xAA#8])) (·.events) [.del (.publish 0x17#8 [0xAA#8])] = true := by decide

/-- V-DSP-12. -/
theorem test_publish101F_fails :
    nextIs (step (failing (atDispatch .threaded 0x10#8 [0x34#8, 0x12#8]))) (fun t => (t.events, t.rxState))
      ([.del (.publish 0x10#8 [0x34#8, 0x12#8]), .diag (.rxOther (.publish 0x10#8 [0x34#8, 0x12#8])), .stopped], .halt)
      = true := by decide

/-- V-DSP-5. -/
theorem test_publish203F :
    nextIs (step (atDispatch .threaded 0x20#8 [0x01#8, 0x02#8, 0x03#8])) (·.events)
      [.del (.publish 0x20#8 [0x01#8, 0x02#8, 0x03#8])] = true := by decide

/-- R225: command 0x7F. -/
theorem test_publish407F :
    nextIs (step (atDispatch .threaded 0x7F#8 [])) (·.events) [.del (.publish 0x7F#8 [])] = true := by decide

/-- V-DSP-6. -/
theorem test_publish80FF :
    nextIs (step (atDispatch .threaded 0xFF#8 [])) (·.events) [.del (.publish 0xFF#8 [])] = true := by decide

/-- V-LIFE-1. -/
theorem test_start :
    nextIs (exec .start { State.construct Params.default [0x01#8, 0x02#8] with draws := ⟨[], [], [.ok], [], 0⟩ })
      (fun t => (t.events, t.rxFifo, t.started, t.alive)) ([.xptReset], [], true, true) = true := by decide

/-- V-LIFE-5, V-LIFE-6. -/
theorem test_start_unspecified :
    nextIs (exec .start (block .threaded)) (·.ufault) (some .start) = true ∧
    nextIs (exec .start (failing State.reset)) (fun t => (t.events, t.ufault)) ([.xptReset], some .reset) = true := by
  decide

/-- V-LIFE-2: the first stop notifies, the second does not. -/
theorem test_stop :
    nextIs (exec .stop (block .threaded)) (fun t => (t.events, t.alive)) ([.stopped], false) = true ∧
    nextIs (exec .stop (stopped (block .threaded))) (·.events) [.stopped] = true := by decide

/-- V-LIFE-7: before `start`. -/
theorem test_sendCommand : nextIs (exec (.sendCommand 0x08#8 []) State.reset) (·.queue) [frameG] = true := by decide

/-- V-SS-8, V-LIFE-9. -/
theorem test_step :
    nextIs (exec .step (State.construct { Params.default with mode := .singleStep } [])) (·.ssPhase) .none = true ∧
    nextIs (exec .step (block .threaded)) (·.ufault) (some .mode) = true := by decide

/-- R45, R14: status can be read after Unspecified behaviour. -/
theorem test_statusRead :
    nextIs (exec .statusRead { block .threaded with ufault := some .text, readCount := 5 }) (·.hostStatus)
      (some ⟨true, false, 5, true, some .text⟩) = true := by decide

/-- R257: bytes arrive in order. -/
theorem test_xptByte :
    nextIs (exec (.xptByte 0x02#8) (reading .threaded .sync1 0#16 0#16 [0x01#8])) (·.rxFifo) [0x01#8, 0x02#8] = true := by
  decide

/-- V-RXL-1, V-RXL-3. -/
theorem test_xptTimeout :
    nextIs (exec .xptTimeout (reading .threaded .cmd 7#16 0#16 [])) (·.events) [.diag (.rxTimeout .cmd 0), .stopped] = true ∧
    nextIs (exec .xptTimeout (reading .threaded .payload 1#16 3#16 [])) (fun t => (t.events, t.rxState))
      ([.diag (.rxTimeout .payload 1), .stopped], .halt) = true := by decide

/-- V-SS-3. -/
theorem test_xptTimeout_singleStep :
    nextIs (exec .xptTimeout (reading .singleStep .len 0#16 0#16 [])) (fun t => (t.events, t.rxState, t.alive))
      ([], .sync1, true) = true := by decide

/-- V-RXL-4. -/
theorem test_xptIoerr :
    nextIs (exec .xptIoerr (reading .threaded .sync1 0#16 0#16 [])) (fun t => (t.events, t.rxState)) ([.stopped], .halt)
      = true := by decide

/-- V-TX-2 (a zero answer), V-TX-7 (the rest of `g`). -/
theorem test_xptWriteAnswer_accept :
    nextIs (exec (.xptWriteAnswer (.accept 0)) (writing .threaded .dropRemainder 0)) (fun t => (t.txOff, t.txState, t.txWire))
      (0, .busy, []) = true ∧
    nextIs (exec (.xptWriteAnswer (.accept 3)) (writing .threaded .dropRemainder 2)) (fun t => (t.txState, t.txWire))
      (.idle, [0x08#8, 0x00#8, 0xFF#8]) = true := by decide

/-- V-TX-4, V-TX-5, V-SS-5, V-SS-6. -/
theorem test_xptWriteAnswer_fails :
    nextIs (exec (.xptWriteAnswer (.timeout 2)) (writing .threaded .retryRemainder 0)) (fun t => (t.events, t.txState, t.txOff))
      ([.diag (.txTimeout 2 5)], .pause, 2) = true ∧
    nextIs (exec (.xptWriteAnswer (.fault 0)) (writing .threaded .dropRemainder 0)) (fun t => (t.events, t.txState))
      ([.diag (.txFault 0 5), .stopped], .halt) = true ∧
    nextIs (exec (.xptWriteAnswer (.fault 1)) (writing .singleStep .dropRemainder 0)) (fun t => (t.events, t.txState, t.txWire))
      ([.diag (.txFault 1 5), .stopped], .idle, [0xAA#8]) = true ∧
    nextIs (exec (.xptWriteAnswer (.timeout 2)) (writing .singleStep .dropRemainder 0)) (fun t => (t.events, t.txState, t.alive))
      ([.diag (.txTimeout 2 5)], .idle, true) = true := by decide

/-- V-SYNC-2: the answer is the dispatch step (log 10). -/
theorem test_delSystimeAnswer :
    nextIs (exec (.delSystimeAnswer (.time 101#32 500000000#32))
        (atDispatch .threaded 0x01#8 [0xC8#8, 0#8, 0#8, 0#8, 0#8, 0#8, 0#8, 0#8]))
      (fun t => (t.events, t.rxState)) ([.del .sysTime, .diag (.timeOffset (-98500))], .sync1) = true := by decide

/-- V-PAR-4, V-PAR-6. -/
theorem test_delParamResult :
    nextIs (exec (.delParamResult 0 [0xFFFFFFFE#32]) { block .threaded with paramIssued := 1 }) (·.queue)
      [[0xAA#8, 0xAA#8, 0x08#8, 0x04#8, 0xFE#8, 0xFF#8, 0xFF#8, 0xFF#8, 0x04#8]] = true ∧
    nextIs (exec (.delParamResult 1 [1#32]) { block .threaded with paramIssued := 1 }) (·.queue) [] = true := by decide

/-! ### The loops, one step each -/

/-- V-RXL-6. -/
theorem test_rx_exits :
    nextIs (step { reading .threaded .sync1 0#16 0#16 [0xAA#8] with alive := false }) (fun t => (t.events, t.rxState, t.rxFifo))
      ([.stopped], .halt, [0xAA#8]) = true := by decide

/-- V-DEC-9: the little-endian length 03 05 is 1283. -/
theorem test_rx_length :
    nextIs (step (reading .threaded .len 1#16 0x0003#16 [0x05#8])) (fun t => (t.rxLen, t.rxIdx, t.rxState))
      (1283#16, 0#16, .payload) = true := by decide

/-- R131: a zero length goes to the checksum in the same step, from a register that held another length. -/
theorem test_rx_zero_length :
    nextIs (step (reading .threaded .len 1#16 0x0700#16 [0x00#8])) (fun t => (t.rxLen, t.rxState)) (0#16, .csum) = true := by
  decide

/-- P4: the last payload byte, with `read_count` grown under neither point yet (ON_ACCEPT). -/
theorem test_rx_payload :
    nextIs (step (reading .threaded .payload 1#16 2#16 [0x65#8])) (fun t => (t.rxBuf, t.rxState, t.readCount))
      ([(1, 0x65#8)], .csum, 0) = true := by decide

/-- V-DEC-12: the drop records command, length, received and expected. -/
theorem test_rx_checksum_mismatch :
    nextIs (step { reading .threaded .csum 2#16 2#16 [0x6C#8] with rxCmd := 0x03#8, rxBuf := [(0, 0x68#8), (1, 0x65#8)] })
      (·.events) [.diag (.dropChecksum 0x03#8 2 0x6C#8 0x32#8)] = true := by decide

/-- V-TX-6, V-TX-1's dequeue. -/
theorem test_tx_idle :
    nextIs (runMove .tx { stopped (block .threaded) with queue := [frameG] }) (fun t => (t.txState, t.queue)) (.halt, [frameG])
      = true ∧
    nextIs (runMove .tx { block .threaded with queue := [frameG] }) (fun t => (t.txState, t.queue, t.txCur))
      (.busy, [], frameG) = true := by decide

/-- V-TX-8, and V-TX-4's pause end. -/
theorem test_tx_pause :
    nextIs (runMove .tx { stopped (writing .threaded .dropRemainder 0) with txState := .pause }) (·.txState) .halt = true ∧
    nextIs (runMove .tx { writing .threaded .retryRemainder 2 with txState := .pause }) (·.txState) .busy = true := by decide

/-- The first step after reset with a table word placed runs its instruction (log 14). -/
theorem test_withFetchWord :
    nextIs (step (State.reset.withFetchWord 8 0x06)) (fun t => (t.events, t.rxState)) ([.diag (.unknownCmd 0x06#8 0)], .sync1)
      = true := by decide

/-! ### Witnesses: for every obligation with hypotheses, states and operands that meet them -/

/-- A state in which a run has ended: both loops halted after a stop. -/
def halted : State := { stopped (block .threaded) with rxState := .halt, txState := .halt, schedule := [.tx] }

/-- Two bytes of `g` are on the wire, under `RETRY_REMAINDER`. -/
def halfWritten : State :=
  { writing .threaded .retryRemainder 2 with txWire := [0xAA#8, 0xAA#8], schedule := [.input (.xptWriteAnswer (.accept 3))] }

/-- A single-step block between two calls. -/
def betweenCalls : State := { block .singleStep with ssPhase := .none }

theorem witness_ChecksumDetection :
    (0 < [0x07#8].length ∧ (0x08#8 : Byte) ≠ 0x07#8) ∧ (0x00#8 : Byte) ≠ checksum [] ∧ [0x01#8, 0x02#8].Perm [0x02#8, 0x01#8] ∧
    ((0 : Nat) ≠ 1 ∧ ((0xFF#8 : Byte).toNat + (0x02#8 : Byte).toNat) % 256 = ((0x01#8 : Byte).toNat + (0x00#8 : Byte).toNat) % 256) ∧
    ([] : List Byte).length ≤ maxPayload := by decide

theorem witness_DecodeGivesEncodedInstruction :
    (Instr.publish101F 15#4 []).wellFormed = true ∧ ∃ bs, encode (.publish101F 15#4 []) = some bs := ⟨rfl, _, rfl⟩

theorem witness_RxFrameRoundTrip : (List.replicate 65535 (0xAA#8 : Byte)).length ≤ maxPayload := by
  rw [List.length_replicate]

theorem witness_LoopbackByLengthBytes :
    (List.replicate 255 (0x01#8 : Byte)).length ≤ 255 ∧ 255 < (List.replicate 256 (0x01#8 : Byte)).length := by
  rw [List.length_replicate, List.length_replicate]; decide

theorem witness_EncoderCornerCases : (List.replicate 256 (0x00#8 : Byte)).length = 256 := by rw [List.length_replicate]

/-- W3's checksum, and one payload byte at the first index. -/
theorem witness_CorruptedFrameIsDropped :
    (([] : List Byte).length ≤ maxPayload ∧ (0xFE#8 : Byte) ≠ checksum []) ∧
    (0 < [0x34#8, 0x12#8].length ∧ [0x34#8, 0x12#8].length ≤ maxPayload ∧ (0x35#8 : Byte) ≠ 0x34#8) := by decide

theorem witness_LoneSyncLosesFrame : hello.length ≤ maxPayload := by decide

theorem witness_StepRunsDecodedInstruction :
    (nextMove (atDispatch .threaded 0x03#8 hello) = .rx ∧ (atDispatch .threaded 0x03#8 hello).rxState = .dispatch ∧
      decode (rxFrame 0x03#8 (rxPayload (atDispatch .threaded 0x03#8 hello))) = .ok (.logInfo hello, [])) ∧
    nextMove { block .threaded with schedule := [.input .stop] } = .input .stop ∧ Instr.stop.isPort = true :=
  ⟨⟨rfl, rfl, rfl⟩, rfl, rfl⟩

theorem witness_PlacedWordRunsNext :
    State.reset.rxBuf.wf = true ∧ decodeTableWord 8 0x13 = some (.publish101F 3#4 []) := ⟨rfl, rfl⟩

theorem witness_dispatch_inv : BlockInv (atDispatch .threaded 0x01#8 sync100) := by
  refine ⟨by unfold LifecycleInv; decide, by unfold ModeInv; decide, by unfold PositionInv; decide, ?_, by unfold TraceInv; decide⟩
  intro f hf; cases hf

theorem witness_write_inv : BlockInv halfWritten := by
  refine ⟨by unfold LifecycleInv; decide, by unfold ModeInv; decide, by unfold PositionInv; decide, ?_, by unfold TraceInv; decide⟩
  intro f hf; cases hf

theorem witness_halt_inv : BlockInv halted := by
  refine ⟨by unfold LifecycleInv; decide, by unfold ModeInv; decide, by unfold PositionInv; decide, ?_, by unfold TraceInv; decide⟩
  intro f hf; cases hf

/-- A time-sync dispatch and a completed write: both answer a next state. -/
theorem witness_StepKeepsBlockInvariant :
    BlockInv (atDispatch .threaded 0x01#8 sync100) ∧ (∃ t, step (atDispatch .threaded 0x01#8 sync100) = .next t) ∧
    BlockInv halfWritten ∧ ∃ t, step halfWritten = .next t :=
  ⟨witness_dispatch_inv, ⟨_, rfl⟩, witness_write_inv, _, rfl⟩

theorem witness_StepKeepsWireInvariant :
    BlockInv halfWritten ∧ WireInv halfWritten ∧ halfWritten.cfg.wrTimeoutPolicy = .retryRemainder ∧
    ∃ t, step halfWritten = .next t := by
  refine ⟨witness_write_inv, fun _ => ⟨[], [0xAA#8, 0xAA#8], rfl, ?_, fun _ => ⟨rfl, 0x08#8, [], rfl⟩, ?_, ?_⟩, rfl, _, rfl⟩
  · intro f hf; cases hf
  · intro h; cases h
  · exact ⟨0x08#8, [], by decide⟩

theorem witness_StoppedAtMostOnce :
    stoppedCount halted.events = (if halted.stopNotified then 1 else 0) ∧ halted.stopNotified = true ∧
    ∃ t : State, core.run 1 halted = .next t := ⟨rfl, rfl, _, rfl⟩

theorem witness_NothingIsUndone : ∃ t, step { stopped (block .threaded) with timeSynced := true, schedule := [.rx] } = .next t :=
  ⟨_, rfl⟩

theorem witness_HaltsAreTerminal :
    halted.ufault = none ∧ halted.rxState = .halt ∧ halted.txState = .halt ∧ BlockInv halted ∧ ∃ t, step halted = .next t :=
  ⟨rfl, rfl, rfl, witness_halt_inv, _, rfl⟩

/-- In THREADED mode both loops are halted; in SINGLE_STEP mode the block is stopped between two calls. -/
theorem witness_EndedRunHasNoBlockStep :
    halted.ended = true ∧ (stopped betweenCalls).ended = true := by decide

theorem witness_UnspecifiedIsAFault : ({ block .threaded with ufault := some .text } : State).ufault = some .text ∧
    Instr.stop ≠ .statusRead ∧ (∀ b, Instr.stop ≠ .xptByte b) ∧ (∀ i, Move.rx ≠ .input i) :=
  ⟨rfl, by decide, fun _ => (nomatch ·), fun _ => (nomatch ·)⟩

/-- One witness for each code, with payloads of seven and nine bytes for `U_SYNC_LEN`. -/
theorem witness_UnspecifiedCodesAreSet :
    (rxAtDispatch (atDispatch .threaded 0x01#8 []) = true ∧ sync100.tail.length ≠ 8 ∧ (0x00#8 :: sync100).length ≠ 8) ∧
    (rxAtDispatch (atDispatch .threaded 0x02#8 [0xFF#8]) = true ∧ utf8 [0xFF#8] = false) ∧
    ((block .threaded).ufault = none ∧ (block .threaded).ssPhase = .none ∧ (block .threaded).started = true) ∧
    ((stopped State.reset).ufault = none ∧ (stopped State.reset).ssPhase = .none ∧ (stopped State.reset).stopNotified = true) ∧
    ((failing State.reset).ufault = none ∧ (failing State.reset).ssPhase = .none ∧ (failing State.reset).started = false ∧
      (failing State.reset).stopNotified = false ∧ nextReset (failing State.reset) = .fail) ∧
    (block .threaded).cfg.mode = .threaded := by decide

theorem witness_NotEnabledChangesNothing :
    ((block .singleStep).ufault = none ∧ (block .singleStep).ssPhase ≠ .none) ∧
    (State.reset.ufault = none ∧ State.reset.rxState = .sync1) ∧
    ((reading .threaded .cmd 0#16 0#16 [0x01#8]).ufault = none ∧ (reading .threaded .cmd 0#16 0#16 [0x01#8]).rxFifo ≠ []) ∧
    State.reset.paramIssued ≤ 0 := by decide

theorem witness_FramesReachOnlyTheirEffects :
    (Instr.timeSync sync100).isPort = false ∧ (∃ t, exec (.timeSync sync100) (atDispatch .threaded 0x01#8 sync100) = .next t) ∧
    (Instr.logInfo hello).isPort = false ∧ (Instr.logInfo hello).commandClass ≠ some .timeSync ∧
    (Instr.logInfo hello).commandClass ≠ some .paramReq ∧
    ∃ t, exec (.logInfo hello) (atDispatch .threaded 0x03#8 hello) = .next t :=
  ⟨rfl, ⟨_, rfl⟩, rfl, by decide, by decide, _, rfl⟩

theorem witness_LoopRegistersArePrivate :
    (∃ t, runMove .tx (block .threaded) = .next t) ∧ (∃ t, runMove .txExit (stopped (writing .threaded .dropRemainder 2)) = .next t) ∧
    (∃ t, runMove (.input (.xptWriteAnswer (.accept 3))) halfWritten = .next t) ∧
    (∃ t, runMove .rx (atDispatch .threaded 0x01#8 sync100) = .next t) ∧
    (∃ t, runMove .rxExit (stopped (atDispatch .threaded 0x03#8 hello)) = .next t) ∧
    (∃ t, runMove (.input .xptTimeout) (reading .threaded .cmd 0#16 0#16 []) = .next t) ∧
    (∃ t, runMove (.input .xptIoerr) (block .threaded) = .next t) ∧
    ∃ t, runMove (.input (.delSystimeAnswer .error)) (atDispatch .threaded 0x01#8 sync100) = .next t :=
  ⟨⟨_, rfl⟩, ⟨_, rfl⟩, ⟨_, rfl⟩, ⟨_, rfl⟩, ⟨_, rfl⟩, ⟨_, rfl⟩, ⟨_, rfl⟩, _, rfl⟩

/-- Every unknown command's row, at the ends of its range. -/
theorem witness_UnknownCommandResult :
    rxAtDispatch (atDispatch .threaded 0x00#8 []) = true ∧ rxAtDispatch (atDispatch .singleStep 0x09#8 []) = true ∧
    ((Instr.unknown00 []).frame = some (0x00#8, []) ∧ (Instr.unknown00 []).commandClass = some .unknown) ∧
    ((Instr.unknown0607 0#1 []).frame = some (0x06#8, []) ∧ (Instr.unknown0607 1#1 []).frame = some (0x07#8, []) ∧
      (Instr.unknown0607 1#1 []).commandClass = some .unknown) ∧
    ((Instr.unknown09 []).frame = some (0x09#8, []) ∧ (Instr.unknown09 []).commandClass = some .unknown) ∧
    ((Instr.unknown0A0B 1#1 []).frame = some (0x0B#8, []) ∧ (Instr.unknown0A0B 1#1 []).commandClass = some .unknown) ∧
    ((Instr.unknown0C0F 0#2 []).frame = some (0x0C#8, []) ∧ (Instr.unknown0C0F 3#2 []).frame = some (0x0F#8, []) ∧
      (Instr.unknown0C0F 3#2 []).commandClass = some .unknown) := by decide

/-- Every publish row, at the ends of its range; the call accepted and failed. -/
theorem witness_PublishResult :
    rxAtDispatch (atDispatch .threaded 0x10#8 []) = true ∧ nextCall (atDispatch .threaded 0x10#8 []) = .ok ∧
    rxAtDispatch (failing (atDispatch .threaded 0x10#8 [])) = true ∧ nextCall (failing (atDispatch .threaded 0x10#8 [])) = .error ∧
    ((Instr.publish101F 0#4 []).frame = some (0x10#8, []) ∧ (Instr.publish101F 15#4 []).frame = some (0x1F#8, []) ∧
      (Instr.publish101F 0#4 []).commandClass = some .publish) ∧
    ((Instr.publish203F 31#5 []).frame = some (0x3F#8, []) ∧ (Instr.publish203F 31#5 []).commandClass = some .publish) ∧
    ((Instr.publish407F 0#6 []).frame = some (0x40#8, []) ∧ (Instr.publish407F 0#6 []).commandClass = some .publish) ∧
    ((Instr.publish80FF 0#7 []).frame = some (0x80#8, []) ∧ (Instr.publish80FF 127#7 []).frame = some (0xFF#8, []) ∧
      (Instr.publish80FF 127#7 []).commandClass = some .publish) := by decide

theorem witness_LogResult :
    (Instr.logWarn hello, LogLevel.warn)
      ∈ [(Instr.logDebug hello, LogLevel.debug), (.logInfo hello, .info), (.logWarn hello, .warn), (.logError hello, .error)] ∧
    rxAtDispatch (atDispatch .threaded 0x04#8 hello) = true ∧ utf8 hello = true ∧
    nextCall (atDispatch .threaded 0x04#8 hello) = .ok ∧
    rxAtDispatch (failing (atDispatch .singleStep 0x04#8 hello)) = true ∧
    nextCall (failing (atDispatch .singleStep 0x04#8 hello)) = .error := by decide

theorem witness_ParamRequestResult :
    rxAtDispatch (atDispatch .threaded 0x08#8 [0x58#8]) = true ∧ utf8 [0x58#8] = true ∧
    nextCall (atDispatch .threaded 0x08#8 [0x58#8]) = .ok ∧
    rxAtDispatch (failing (atDispatch .threaded 0x08#8 [0x58#8])) = true ∧
    nextCall (failing (atDispatch .threaded 0x08#8 [0x58#8])) = .error := by decide

theorem witness_TimeSyncResult :
    (rxAtDispatch (atDispatch .threaded 0x01#8 [0x01#8]) = true ∧ [0x01#8].length ≠ 8) ∧
    rxAtDispatch (atDispatch .threaded 0x01#8 sync100) = true ∧
    nextSysTime (atDispatch .threaded 0x01#8 sync100) = .time 101#32 500000000#32 ∧
    rxAtDispatch (failing (atDispatch .singleStep 0x01#8 sync100)) = true ∧
    nextSysTime (failing (atDispatch .singleStep 0x01#8 sync100)) = .error := by decide

theorem witness_SysTimeAnswerResult : sysTimeCalled (atDispatch .threaded 0x01#8 sync100) = true := by decide

/-- The largest request number, the one before `param_issued`. -/
theorem witness_ParamResultReply :
    ({ block .threaded with paramIssued := 2 } : State).ufault = none ∧
    1 < ({ block .threaded with paramIssued := 2 } : State).paramIssued := by decide

/-- Before `start`, with the reset to be answered OK. -/
def resettable : State := { State.reset with draws := ⟨[], [], [.ok], [], 0⟩ }

/-- The reset answered OK and FAIL; a started and a stopped block. -/
theorem witness_StartResult :
    (resettable.ufault = none ∧ resettable.ssPhase = .none ∧ resettable.started = false ∧ resettable.stopNotified = false ∧
      nextReset resettable = .ok) ∧
    ((failing resettable).ufault = none ∧ (failing resettable).ssPhase = .none ∧ (failing resettable).started = false ∧
      (failing resettable).stopNotified = false ∧ nextReset (failing resettable) = .fail) ∧
    ((block .threaded).ufault = none ∧ (block .threaded).ssPhase = .none ∧ (block .threaded).started = true) ∧
    ((stopped resettable).ufault = none ∧ (stopped resettable).ssPhase = .none ∧ (stopped resettable).stopNotified = true) := by
  decide

/-- Before `start`, running, and stopped. -/
theorem witness_StopResult :
    (State.reset.ufault = none ∧ State.reset.ssPhase = .none) ∧
    ((block .threaded).ufault = none ∧ (block .threaded).ssPhase = .none) ∧
    (halted.ufault = none ∧ halted.ssPhase = .none ∧ halted.stopNotified = true) := by decide

theorem witness_SendCommandResult :
    (State.reset.ufault = none ∧ State.reset.ssPhase = .none) ∧ (halted.ufault = none ∧ halted.ssPhase = .none) := by decide

theorem witness_SingleStepCallResult :
    (betweenCalls.ufault = none ∧ betweenCalls.ssPhase = .none ∧ betweenCalls.cfg.mode = .singleStep ∧
      betweenCalls.started = true ∧ betweenCalls.alive = true) ∧
    ((stopped betweenCalls).ufault = none ∧ (stopped betweenCalls).ssPhase = .none ∧
      (stopped betweenCalls).cfg.mode = .singleStep ∧ (stopped betweenCalls).alive = false) ∧
    ((block .threaded).ufault = none ∧ (block .threaded).ssPhase = .none ∧ (block .threaded).cfg.mode = .threaded) := by
  decide

/-- Every waiting state, positions at their ends, both modes. -/
theorem witness_ReadTimeoutResult :
    (∀ r ∈ [RxState.sync2, .cmd, .len, .payload, .csum],
      rxMayStep (reading .threaded r 1#16 3#16 []) = true ∧ (reading .threaded r 1#16 3#16 []).rxFifo = []) ∧
    (RxState.payload, 1) ∈ [(RxState.sync2, 0), (.cmd, 0), (.len, (1#16).toNat), (.payload, (1#16).toNat), (.csum, 0)] ∧
    rxMayStep (reading .singleStep .len 0#16 0#16 []) = true ∧
    (RxState.len, 0) ∈ [(RxState.sync2, 0), (.cmd, 0), (.len, (0#16).toNat), (.payload, (0#16).toNat), (.csum, 0)] := by decide

theorem witness_IoErrorResult :
    ∀ m ∈ [Mode.threaded, .singleStep], ∀ r ∈ [RxState.sync1, .payload],
      rxMayStep (reading m r 0#16 1#16 []) = true ∧ (reading m r 0#16 1#16 []).cfg.mode = m ∧
      (reading m r 0#16 1#16 []).rxState ≠ .dispatch := by decide

/-- Nothing accepted, and the last byte accepted. -/
theorem witness_WriteAcceptedResult :
    txMayStep halfWritten = true ∧ halfWritten.txState = .busy ∧ halfWritten.txOff < halfWritten.txCur.length ∧
    (0 ≤ halfWritten.txCur.length - halfWritten.txOff ∧ halfWritten.txOff + 0 < halfWritten.txCur.length) ∧
    (3 ≤ halfWritten.txCur.length - halfWritten.txOff ∧ halfWritten.txOff + 3 = halfWritten.txCur.length) := by decide

/-- Both policies; nothing accepted, and all but one byte. -/
theorem witness_WriteTimeoutThreadedResult :
    ∀ p ∈ [WrTimeoutPolicy.dropRemainder, .retryRemainder], ∀ k ∈ [0, 4],
      (writing .threaded p 0).cfg.mode = .threaded ∧ txMayStep (writing .threaded p 0) = true ∧
      (writing .threaded p 0).txState = .busy ∧ (writing .threaded p 0).cfg.wrTimeoutPolicy = p ∧
      k < (writing .threaded p 0).txCur.length - (writing .threaded p 0).txOff := by decide

theorem witness_WriteFaultThreadedResult :
    ∀ k ∈ [0, 4], (writing .threaded .dropRemainder 0).cfg.mode = .threaded ∧
      txMayStep (writing .threaded .dropRemainder 0) = true ∧ (writing .threaded .dropRemainder 0).txState = .busy ∧
      k < (writing .threaded .dropRemainder 0).txCur.length - (writing .threaded .dropRemainder 0).txOff := by decide

theorem witness_SingleStepWriteCycle :
    (txMayStep { writing .singleStep .dropRemainder 0 with txState := .idle } = true ∧
      (writing .singleStep .dropRemainder 0).cfg.mode = .singleStep ∧ (writing .singleStep .dropRemainder 0).queue = []) ∧
    (txMayStep (writing .singleStep .dropRemainder 2) = true ∧ (writing .singleStep .dropRemainder 2).txState = .busy ∧
      (writing .singleStep .dropRemainder 2).txOff < (writing .singleStep .dropRemainder 2).txCur.length ∧
      3 = (writing .singleStep .dropRemainder 2).txCur.length - (writing .singleStep .dropRemainder 2).txOff ∧
      2 < (writing .singleStep .dropRemainder 2).txCur.length - (writing .singleStep .dropRemainder 2).txOff ∧
      nextTimeout (writing .singleStep .dropRemainder 2) = .continue) ∧
    (txMayStep (failing (writing .singleStep .dropRemainder 2)) = true ∧
      nextTimeout (failing (writing .singleStep .dropRemainder 2)) = .stop) := by decide

/-- An empty poll and a pending byte in each of the two states, matching and not. -/
theorem witness_PreambleSteps :
    (rxMayStep (reading .threaded .sync1 0#16 0#16 []) = true ∧ (reading .threaded .sync1 0#16 0#16 []).alive = true) ∧
    (rxMayStep (reading .singleStep .sync1 0#16 0#16 [0xAA#8]) = true ∧
      (reading .singleStep .sync1 0#16 0#16 [0xAA#8]).rxFifo = 0xAA#8 :: []) ∧
    (rxMayStep (reading .threaded .sync1 0#16 0#16 [0xAB#8]) = true ∧ (0xAB#8 : Byte) ≠ 0xAA#8 ∧
      (reading .threaded .sync1 0#16 0#16 [0xAB#8]).alive = true) ∧
    (rxMayStep (reading .threaded .sync2 0#16 0#16 [0xAA#8]) = true ∧
      (reading .threaded .sync2 0#16 0#16 [0xAA#8]).rxState = .sync2) ∧
    (rxMayStep (reading .singleStep .sync2 0#16 0#16 [0xA9#8]) = true ∧ (0xA9#8 : Byte) ≠ 0xAA#8) := by decide

theorem witness_HeaderSteps :
    (rxMayStep (reading .threaded .cmd 7#16 0x0503#16 [0xFF#8]) = true ∧
      (reading .threaded .cmd 7#16 0x0503#16 [0xFF#8]).rxFifo = 0xFF#8 :: [] ∧
      (reading .threaded .cmd 7#16 0x0503#16 [0xFF#8]).rxState = .cmd) ∧
    (rxMayStep (reading .threaded .len 0#16 0xFFFF#16 [0x00#8]) = true ∧
      (reading .threaded .len 0#16 0xFFFF#16 [0x00#8]).rxState = .len ∧
      (reading .threaded .len 0#16 0xFFFF#16 [0x00#8]).rxIdx = 0#16) ∧
    (rxMayStep (reading .singleStep .len 1#16 0x0500#16 [0x00#8]) = true ∧
      (reading .singleStep .len 1#16 0x0500#16 [0x00#8]).rxState = .len ∧
      (reading .singleStep .len 1#16 0x0500#16 [0x00#8]).rxIdx = 1#16) := by decide

/-- The first byte of two, the last of two, and the last of 65535. -/
theorem witness_PayloadStep :
    (rxMayStep (reading .threaded .payload 0#16 2#16 [0x68#8]) = true ∧ 0#16 < 2#16 ∧ 0#16 + 1#16 ≠ 2#16 ∧
      (reading .threaded .payload 0#16 2#16 [0x68#8]).rxFifo = 0x68#8 :: [] ∧
      (reading .threaded .payload 0#16 2#16 [0x68#8]).rxBuf.wf = true) ∧
    (rxMayStep (reading .threaded .payload 1#16 2#16 [0x68#8]) = true ∧ 1#16 < 2#16 ∧ 1#16 + 1#16 = 2#16) ∧
    (rxMayStep (reading .threaded .payload 65534#16 65535#16 [0x68#8]) = true ∧ 65534#16 < 65535#16 ∧
      65534#16 + 1#16 = 65535#16) :=
  ⟨⟨rfl, by decide, by decide, rfl, rfl⟩, ⟨rfl, by decide, by decide⟩, rfl, by decide, by decide⟩

theorem witness_ChecksumStep :
    rxMayStep (reading .threaded .csum 0#16 0#16 [0xFF#8]) = true ∧
    (0xFF#8 : Byte) = checksum (rxPayload (reading .threaded .csum 0#16 0#16 [0xFF#8])) ∧
    (0xFE#8 : Byte) ≠ checksum (rxPayload (reading .threaded .csum 0#16 0#16 [0xFE#8])) := by decide

/-- Every boundary, with its first byte pending; `R_LEN` and `R_PAYLOAD` past their first byte; and a wait. -/
theorem witness_LoopsExitAfterStop :
    ((stopped (block .threaded)).cfg.mode = .threaded ∧ (stopped (block .threaded)).ufault = none ∧
      (stopped (block .threaded)).started = true ∧ (stopped (block .threaded)).alive = false ∧
      (stopped (block .threaded)).rxState = .sync1 ∧ (stopped (block .threaded)).txState = .idle) ∧
    ((stopped (reading .threaded .dispatch 3#16 3#16 [])).rxState = .dispatch ∧
      (stopped (reading .threaded .dispatch 3#16 3#16 [])).started = true) ∧
    (∀ r ∈ [RxState.sync2, .cmd, .csum, .len, .payload],
      (stopped (reading .threaded r 0#16 3#16 [0x01#8])).rxState = r ∧
      (stopped (reading .threaded r 0#16 3#16 [0x01#8])).rxIdx = 0#16 ∧
      (stopped (reading .threaded r 0#16 3#16 [0x01#8])).rxFifo ≠ [] ∧
      (stopped (reading .threaded r 0#16 3#16 [0x01#8])).started = true) ∧
    ((stopped (reading .threaded .payload 1#16 3#16 [])).rxState ∈ [RxState.len, .payload] ∧
      (stopped (reading .threaded .payload 1#16 3#16 [])).rxIdx ≠ 0#16) ∧
    rxWaiting (stopped (reading .threaded .cmd 0#16 0#16 [])) = true ∧
    ((stopped (writing .threaded .dropRemainder 2)).txState = .busy ∧
      (stopped (writing .threaded .dropRemainder 2)).started = true) := by decide

/-- R288, R163's corner case: after a stop RX does not exit while it waits, and it may once a byte is pending. -/
theorem test_rxExit_not_while_waiting :
    nextIs (runMove .rxExit (stopped (reading .threaded .cmd 0#16 0#16 []))) (·.rxState) .cmd = true ∧
    nextIs (runMove .rxExit (stopped (reading .threaded .cmd 0#16 0#16 [0x10#8]))) (·.rxState) .halt = true := by decide

theorem witness_wait_inv : BlockInv (stopped (reading .threaded .cmd 0#16 0#16 [])) := by
  refine ⟨by unfold LifecycleInv; decide, by unfold ModeInv; decide, by unfold PositionInv; decide, ?_, by unfold TraceInv; decide⟩
  intro f hf; cases hf

/-- A wait after a stop; the optional exit, a step of TX and an arriving byte all answer a next state. -/
theorem witness_WaitGoesOnUntilInput :
    BlockInv (stopped (reading .threaded .cmd 0#16 0#16 [])) ∧
    rxWaiting (stopped (reading .threaded .cmd 0#16 0#16 [])) = true ∧
    ∀ m ∈ [Move.rxExit, .tx, .input (.xptByte 0x10#8)],
      (∃ t, runMove m (stopped (reading .threaded .cmd 0#16 0#16 [])) = .next t) ∧
      m ≠ .input .xptTimeout ∧ m ≠ .input .xptIoerr := by
  refine ⟨witness_wait_inv, by decide, fun m hm => ?_⟩
  simp only [List.mem_cons, List.not_mem_nil, or_false] at hm
  obtain rfl | rfl | rfl := hm <;> exact ⟨⟨_, rfl⟩, by decide, by decide⟩

/-- A schedule: RX once, then TX. -/
def haltingSchedule : Nat → Move
  | 0 => .rx
  | _ + 1 => .tx

/-- The run of that schedule from a stopped block: RX halts, then TX. -/
def haltingRun : Nat → State
  | 0 => stopped (block .threaded)
  | 1 => { stopped (block .threaded) with rxState := .halt }
  | _ + 2 => { stopped (block .threaded) with rxState := .halt, txState := .halt }

theorem witness_haltingRun_isRun : IsRun haltingSchedule haltingRun
  | 0 => rfl
  | 1 => rfl
  | _ + 2 => rfl

theorem witness_haltingRun_inv : BlockInv (haltingRun 0) := by
  refine ⟨by unfold LifecycleInv; decide, by unfold ModeInv; decide, by unfold PositionInv; decide, ?_, by unfold TraceInv; decide⟩
  intro f hf; cases hf

theorem witness_haltingRun_fair : Fair haltingSchedule haltingRun :=
  ⟨fun n h => Bool.noConfusion (h (n + 2) (Nat.le_add_right n 2) : false = true),
    fun n h => Bool.noConfusion (h (n + 2) (Nat.le_add_right n 2) : false = true)⟩

/-- A fair run that meets every premise. -/
theorem witness_BothLoopsHaltAfterStop :
    IsRun haltingSchedule haltingRun ∧ BlockInv (haltingRun 0) ∧ (haltingRun 0).cfg.mode = .threaded ∧
    (haltingRun 0).started = true ∧ (haltingRun 0).stopNotified = true ∧ (∀ n, (haltingRun n).ufault = none) ∧
    Fair haltingSchedule haltingRun ∧ WaitsEnd haltingRun ∧ WritesProgress haltingSchedule haltingRun :=
  ⟨witness_haltingRun_isRun, witness_haltingRun_inv, rfl, rfl, rfl,
    fun | 0 => rfl | 1 => rfl | _ + 2 => rfl, witness_haltingRun_fair,
    fun n _ => ⟨n + 2, Nat.le_add_right n 2, rfl⟩,
    fun n h => Bool.noConfusion (h (n + 2) (Nat.le_add_right n 2) : false = true)⟩

theorem witness_WriterCycleSteps :
    (∀ m ∈ [Mode.threaded, .singleStep],
      txMayStep { writing m .dropRemainder 0 with txState := .idle, queue := [frameG] } = true ∧
      (writing m .dropRemainder 0).alive = true) ∧
    (txMayStep (block .threaded) = true ∧ (block .threaded).queue = [] ∧ (block .threaded).txState = .idle) ∧
    (txMayStep { block .singleStep with ssPhase := .write } = true ∧ (block .singleStep).queue = [] ∧
      (block .singleStep).txState = .idle) ∧
    (txMayStep { writing .threaded .retryRemainder 2 with txState := .pause } = true ∧
      txMayStep (stopped { writing .threaded .retryRemainder 2 with txState := .pause }) = true) := by decide

/-- One input for each outcome: nothing, a drop, a frame, and a header cut short. -/
theorem witness_ReaderRefinesDecodeOne :
    (∀ m ∈ [Mode.threaded, .singleStep], rxMayStep (reading m .sync1 0#16 0#16 []) = true ∧
      (reading m .sync1 0#16 0#16 []).rxBuf.wf = true ∧ (reading m .sync1 0#16 0#16 []).alive = true) ∧
    (decode1 []).1 = .empty ∧ (decode1 [0xAA#8, 0x01#8]).1 = .drop .sync2 ∧
    (decode1 [0xAA#8, 0xAA#8, 0x10#8, 0x00#8, 0x00#8, 0xFF#8]).1 = .frame 0x10#8 [] ∧
    (decode1 [0xAA#8, 0xAA#8, 0x01#8]).1 = .short := by decide

end Sys2Proof.Tests
end

section
/-! SUPPORT. What no step undoes, as a preorder on states that every operation respects; the obligation NothingIsUndone. -/

namespace Sys2Proof.Scope

open Sys2Proof.Machine Sys2Proof.Laws

/-- Nothing that `s` has done is undone in `t`. The relation speaks of the one-way registers only, so an update of any other
register relates a state to its result by `Forward.refl`. -/
def Forward (s t : State) : Prop :=
  t.cfg = s.cfg ∧ (s.started = true → t.started = true) ∧ (s.stopNotified = true → t.stopNotified = true) ∧
  (s.stopNotified = true → s.alive = false → t.alive = false) ∧ (s.timeSynced = true → t.timeSynced = true) ∧
  s.readCount ≤ t.readCount ∧ s.paramIssued ≤ t.paramIssued ∧ (∀ u, s.ufault = some u → t.ufault = some u) ∧
  s.txWire <+: t.txWire ∧ s.events <+: t.events

theorem Forward.refl (s : State) : Forward s s :=
  ⟨rfl, id, id, fun _ => id, id, le_rfl, le_rfl, fun _ => id, ⟨[], List.append_nil _⟩, ⟨[], List.append_nil _⟩⟩

theorem Forward.trans {s t r : State} (h : Forward s t) (k : Forward t r) : Forward s r := by
  obtain ⟨hcfg, hstart, hstop, halive, hsync, hread, hparam, hfault, hwire, hevents⟩ := h
  obtain ⟨kcfg, kstart, kstop, kalive, ksync, kread, kparam, kfault, kwire, kevents⟩ := k
  exact ⟨kcfg.trans hcfg, kstart ∘ hstart, kstop ∘ hstop, fun n a => kalive (hstop n) (halive n a), ksync ∘ hsync,
    hread.trans kread, hparam.trans kparam, fun u hu => kfault u (hfault u hu), hwire.trans kwire, hevents.trans kevents⟩

theorem Forward.ite {c : Prop} [Decidable c] {s a b : State} (ha : Forward s a) (hb : Forward s b) :
    Forward s (if c then a else b) := by
  split
  · exact ha
  · exact hb

/-! ### The operations that write a one-way register -/

theorem forward_emit (e : Event) (s : State) : Forward s (emit e s) := by simp [Forward]

theorem forward_stopBlock (s : State) : Forward s (stopBlock s) := by simp [Forward, stopBlock_eq]

theorem forward_raiseUnspecified (u : UCode) (s : State) : Forward s (raiseUnspecified u s) := by
  simp +contextual [Forward]

theorem forward_countRead (q : ReadCountPoint) (s : State) : Forward s (countRead q s) := by
  simp only [Forward, countRead_eq]
  split <;> simp

theorem forward_countParam (s : State) : Forward s (countParam s) := by simp [Forward]

theorem forward_setTimeSynced (s : State) : Forward s (setTimeSynced s) := by simp [Forward]

theorem forward_txAccept (k : Nat) (s : State) : Forward s (txAccept k s) := by simp [Forward]

/-- `start` sets `alive`, which undoes nothing while no stop was notified (R182). -/
theorem forward_activate {s : State} (h : s.stopNotified = false) : Forward s (activate s) := by simp [Forward, h]

/-! ### The operations that branch but write none -/

theorem forward_endAttempt (s : State) : Forward s (endAttempt s) := by
  rw [endAttempt_eq]; exact .refl s

theorem forward_endWriteCycle (s : State) : Forward s (endWriteCycle s) := by
  rw [endWriteCycle_eq]; exact .refl s

theorem forward_useCall (s : State) : Forward s (useCall s) := by
  rw [useCall_eq]; exact .refl s

theorem forward_useSysTime (s : State) : Forward s (useSysTime s) := by
  rw [useSysTime_eq]; exact .refl s

theorem forward_useReset (s : State) : Forward s (useReset s) := by
  rw [useReset_eq]; exact .refl s

theorem forward_useTimeout (s : State) : Forward s (useTimeout s) := by
  rw [useTimeout_eq]; exact .refl s

theorem forward_dropRemainder (s : State) : Forward s (dropRemainder s) := by
  unfold dropRemainder
  split <;> exact .refl s

/-! ### Dispatch -/

theorem forward_haltRx (s : State) : Forward s (haltRx s) := forward_stopBlock s

theorem forward_haltTx (s : State) : Forward s (haltTx s) := forward_stopBlock s

theorem forward_takeRxException (x : RxException) (s : State) : Forward s (takeRxException x s) := by
  have hdiag : Forward s (exceptionDiag x s) := by
    obtain h | ⟨d, h⟩ := exceptionDiag_cases x s <;> rw [h]
    · exact .refl s
    · exact forward_emit _ s
  unfold takeRxException
  split
  · exact hdiag.trans (forward_haltRx _)
  · exact forward_endAttempt s

theorem forward_endDispatch {s : State} {r : State × Ending} (h : Forward s r.1) : Forward s (endDispatch r) := by
  refine h.trans ?_
  unfold endDispatch
  split
  · exact forward_endAttempt _
  · exact forward_takeRxException _ _
  · exact forward_raiseUnspecified _ _

theorem forward_callDelegate (e : DelCall) (s : State) : Forward s (callDelegate e s).1 := by
  obtain h | h := callDelegate_cases e s <;> rw [h] <;> exact (forward_emit _ s).trans (forward_useCall _)

theorem forward_logActions (l : LogLevel) (p : List Byte) (s : State) : Forward s (logActions l p s).1 := by
  unfold logActions
  split
  · exact forward_callDelegate _ s
  · exact .refl s

theorem forward_paramActions (p : List Byte) (s : State) : Forward s (paramActions p s).1 := by
  unfold paramActions
  split
  · exact (forward_countParam s).trans (forward_callDelegate _ _)
  · exact .refl s

theorem forward_timeSyncAnswered (p : List Byte) (a : SysTimeAnswer) (s : State) :
    Forward s (timeSyncAnswered p a s).1 := by
  cases a with
  | time hs hn => exact (forward_setTimeSynced s).trans (forward_emit _ (setTimeSynced s))
  | error => exact .refl s

theorem forward_timeSyncActions (p : List Byte) (s : State) : Forward s (timeSyncActions p s).1 := by
  unfold timeSyncActions
  split
  · exact .refl s
  · exact ((forward_emit _ s).trans (forward_useSysTime _)).trans (forward_timeSyncAnswered _ _ _)

/-! ### The HOST operations -/

theorem forward_startActions (s : State) : Forward s (startActions s) := by
  have hused : Forward s (useReset (emit .xptReset s)) := (forward_emit _ s).trans (forward_useReset _)
  unfold startActions
  split
  · exact forward_raiseUnspecified _ s
  next hmisuse =>
    have hstop : s.stopNotified = false := by simp_all
    split
    · exact hused.trans (forward_activate (by simp [hstop]))
    · exact hused.trans (forward_raiseUnspecified _ _)

theorem forward_stepActions (s : State) : Forward s (stepActions s) := by
  unfold stepActions
  split
  · exact forward_raiseUnspecified _ s
  · exact .ite (.refl s) (.refl s)

/-! ### The Reader -/

theorem forward_readSync1 (b : Byte) (s : State) : Forward s (readSync1 b s) := by
  unfold readSync1
  exact .ite (.refl s) ((forward_emit _ s).trans (forward_endAttempt _))

theorem forward_readSync2 (b : Byte) (s : State) : Forward s (readSync2 b s) := by
  unfold readSync2
  exact .ite (.refl s) ((forward_emit _ s).trans (forward_endAttempt _))

theorem forward_readLenHi (b : Byte) (s : State) : Forward s (readLenHi b s) := by
  unfold readLenHi afterLen
  exact .ite (forward_countRead _ { s with rxLen := setLenHi s.rxLen b, rxIdx := 0#16 }) (.refl s)

theorem forward_readPayload (b : Byte) (s : State) : Forward s (readPayload b s) := by
  unfold readPayload afterPayload
  exact .ite (forward_countRead _ (storePayload b s)) (.refl s)

theorem forward_readCsum (k : Byte) (s : State) : Forward s (readCsum k s) := by
  unfold readCsum
  exact .ite (forward_countRead _ s) ((forward_emit _ s).trans (forward_endAttempt _))

theorem forward_readByte (b : Byte) (rest : List Byte) (s : State) : Forward s (readByte b rest s) := by
  unfold readByte
  cases s.rxState with
  | sync1 => exact forward_readSync1 b (rxTake rest s)
  | sync2 => exact forward_readSync2 b (rxTake rest s)
  | cmd => exact .refl s
  | len => exact .ite (.refl s) (.ite (forward_readLenHi b (rxTake rest s)) (.refl s))
  | payload => exact .ite (forward_readPayload b (rxTake rest s)) (.refl s)
  | csum => exact forward_readCsum b (rxTake rest s)
  | dispatch => exact .refl s
  | halt => exact .refl s

theorem forward_readNothing (s : State) : Forward s (readNothing s) := by
  unfold readNothing
  split
  · exact forward_endAttempt s
  all_goals exact .refl s

theorem forward_readerStep (s : State) : Forward s (readerStep s) := by
  obtain ⟨-, h⟩ | ⟨-, -, h⟩ | ⟨b, rest, -, -, h⟩ := readerStep_cases s <;> rw [h]
  · exact forward_haltRx s
  · exact forward_readNothing s
  · exact forward_readByte b rest s

/-! ### The Writer -/

theorem forward_txAccepted (s : State) : Forward s (txAccepted s) := by
  unfold txAccepted
  exact .ite (forward_endWriteCycle { s with txState := .idle }) (.refl s)

theorem forward_txTimedOut (s : State) : Forward s (txTimedOut s) := by
  have hdiag : Forward s (diag (.txTimeout s.txOff s.txCur.length) (useTimeout s)) :=
    (forward_useTimeout s).trans (forward_emit _ _)
  unfold txTimedOut txTimedOutSingle
  split
  · exact (forward_emit _ s).trans (forward_dropRemainder { diag _ s with txState := .pause })
  · split
    · exact hdiag
    · exact hdiag.trans (forward_stopBlock _)

theorem forward_txFaulted (s : State) : Forward s (txFaulted s) := by
  unfold txFaulted
  split <;> exact (forward_emit _ s).trans (forward_stopBlock _)

theorem forward_txAnswered (a : WriteAnswer) (s : State) : Forward s (txAnswered a s) := by
  cases a with
  | accept k => exact (forward_txAccept k s).trans (forward_txAccepted _)
  | timeout k => exact (forward_txAccept k s).trans (forward_txTimedOut _)
  | fault k => exact (forward_txAccept k s).trans (forward_txFaulted _)

theorem forward_txIdleStep (s : State) : Forward s (txIdleStep s) := by
  unfold txIdleStep txDequeue
  refine .ite (forward_haltTx s) ?_
  split
  · exact forward_endWriteCycle s
  · exact .refl s

theorem forward_txPauseStep (s : State) : Forward s (txPauseStep s) := by
  unfold txPauseStep
  split
  · exact .refl s
  · exact .ite (forward_haltTx s) (.refl s)

theorem forward_writerStep (s : State) : Forward s (writerStep s) := by
  unfold writerStep
  split
  · exact forward_txIdleStep s
  · exact forward_txPauseStep s
  · exact .refl s
  · exact .refl s

/-! ### Every step -/

theorem forward_of_effect {s t : State} (h : Effect s t) : Forward s t := by
  cases h with
  | unknown c p => exact forward_endDispatch (forward_emit _ s)
  | publish c p => exact forward_endDispatch (forward_callDelegate _ s)
  | log l p => exact forward_endDispatch (forward_logActions l p s)
  | param p => exact forward_endDispatch (forward_paramActions p s)
  | timeSync p => exact forward_endDispatch (forward_timeSyncActions p s)
  | sysTime a => exact forward_endDispatch (forward_timeSyncActions _ (offerSysTime a s))
  | start => exact forward_startActions s
  | stop => exact forward_stopBlock s
  | send c p => exact .refl s
  | call => exact forward_stepActions s
  | status => exact .refl s
  | byte b => exact .refl s
  | timeout => exact forward_takeRxException _ s
  | ioErr => exact forward_takeRxException _ s
  | write a => exact forward_txAnswered a s
  | result k values => exact .refl s
  | reader => exact forward_readerStep s
  | rxExit => exact forward_haltRx s
  | writer => exact forward_writerStep s
  | txExit => exact forward_haltTx s

theorem forward_of_runMove {m : Move} {s t : State} (h : runMove m s = .next t) : Forward s t := by
  obtain rfl | he := runMove_effect h
  · exact .refl t
  · exact forward_of_effect he

/-- Settles O21: a step is a move after `takeMove`, which writes no one-way register, and every move is `Forward`. -/
theorem nothingIsUndone : Obligations.NothingIsUndone := by
  intro s t h
  have htake : Forward s (takeMove s) := .refl s
  exact htake.trans (forward_of_runMove h)

end Sys2Proof.Scope
end

section
/-! SUPPORT. After Unspecified behaviour: the obligation UnspecifiedIsAFault. -/

namespace Sys2Proof.Scope

open Sys2Proof.Machine Sys2Proof.Laws

/-- RX dispatches frames only: no command selects a port operation (R90). -/
theorem instrOf_isPort (c : Byte) (p : List Byte) : (instrOf c p).isPort = false := by
  unfold instrOf
  iterate 14 refine iteInduction (motive := fun i : Instr => i.isPort = false) (fun _ => rfl) fun _ => ?_
  rfl

/-- The two instructions that are no step of the block nor on it (R45, R257) are the ones `ufault` does not stop. -/
theorem exec_fault {i : Instr} {s : State} {u : UCode} (hu : s.ufault = some u) (hstatus : i ≠ .statusRead)
    (hbyte : ∀ b, i ≠ .xptByte b) : exec i s = .fault (.unspecified u) := by
  cases i with
  | statusRead => exact absurd rfl hstatus
  | xptByte b => exact absurd rfl (hbyte b)
  | _ => exact whenEnabled_fault hu

theorem exec_frame_fault {i : Instr} {s : State} {u : UCode} (hu : s.ufault = some u) (hi : i.isPort = false) :
    exec i s = .fault (.unspecified u) := by
  apply exec_fault hu
  · rintro rfl; cases hi
  · rintro b rfl; cases hi

theorem rxMove_fault {s : State} {u : UCode} (hu : s.ufault = some u) : rxMove s = .fault (.unspecified u) := by
  unfold rxMove
  split
  · exact exec_frame_fault hu (instrOf_isPort _ _)
  · exact whenEnabled_fault hu

/-- Settles O25: everything but a status read and a byte arrival goes through `whenEnabled`, which faults. -/
theorem unspecifiedIsAFault : Obligations.UnspecifiedIsAFault := by
  intro s u hu
  refine ⟨fun i => exec_fault hu, fun m hm => ?_⟩
  cases m with
  | rx => exact rxMove_fault hu
  | rxExit => exact whenEnabled_fault hu
  | tx => exact whenEnabled_fault hu
  | txExit => exact whenEnabled_fault hu
  | input i => exact absurd rfl (hm i)

end Sys2Proof.Scope
end

section
/-! SUPPORT. What no step reads: the durations (R10), the schedule and the count of moves (log 1). A step of a state relabelled
in these is the step of the state, relabelled; the obligations DurationsAreNeverRead and ScheduleIsNotRead. -/

namespace Sys2Proof.Scope

open Sys2Proof.Machine Sys2Proof.Laws

/-- A change of what no step reads, each part a function of the value it had. -/
structure Relabelling where
  durations : Durations → Durations
  schedule : List Move → List Move
  moved : Nat → Nat

/-- The relabelled state. -/
def Relabelling.onState (g : Relabelling) (s : State) : State :=
  { s with
    cfg := { s.cfg with durations := g.durations s.cfg.durations }
    schedule := g.schedule s.schedule
    moved := g.moved s.moved }

/-- What a command's actions lead to, relabelled. -/
def Relabelling.onActions (g : Relabelling) (r : State × Ending) : State × Ending := (g.onState r.1, r.2)

theorem withDurations_eq_onState (d : Durations) : State.withDurations d = (Relabelling.mk (fun _ => d) id id).onState := rfl

theorem takeMove_eq_onState : takeMove = (Relabelling.mk id List.tail (· + 1)).onState := rfl

variable (g : Relabelling)

/-! ### What an operation reads -/

@[simp] theorem onState_started (s : State) : (g.onState s).started = s.started := rfl
@[simp] theorem onState_stopNotified (s : State) : (g.onState s).stopNotified = s.stopNotified := rfl
@[simp] theorem onState_ufault (s : State) : (g.onState s).ufault = s.ufault := rfl
@[simp] theorem onState_rxState (s : State) : (g.onState s).rxState = s.rxState := rfl
@[simp] theorem onState_txState (s : State) : (g.onState s).txState = s.txState := rfl
@[simp] theorem onState_txCur (s : State) : (g.onState s).txCur = s.txCur := rfl
@[simp] theorem onState_txOff (s : State) : (g.onState s).txOff = s.txOff := rfl
@[simp] theorem onState_queue (s : State) : (g.onState s).queue = s.queue := rfl
@[simp] theorem onState_rxFifo (s : State) : (g.onState s).rxFifo = s.rxFifo := rfl
@[simp] theorem onState_draws (s : State) : (g.onState s).draws = s.draws := rfl
@[simp] theorem onState_mode (s : State) : (g.onState s).cfg.mode = s.cfg.mode := rfl
@[simp] theorem onState_wrTimeoutPolicy (s : State) : (g.onState s).cfg.wrTimeoutPolicy = s.cfg.wrTimeoutPolicy := rfl

/-- A branch of an operation commutes with the relabelling when its condition reads nothing relabelled and both its ends
commute. -/
theorem ite_onState {c : Prop} [Decidable c] {a b a' b' : State} (ha : a' = g.onState a) (hb : b' = g.onState b) :
    (if c then a' else b') = g.onState (if c then a else b) := by
  rw [ha, hb, apply_ite g.onState]

/-! ### The shared operations -/

theorem stopBlock_onState (s : State) : stopBlock (g.onState s) = g.onState (stopBlock s) := by
  simp only [stopBlock_eq]; rfl

theorem haltRx_onState (s : State) : haltRx (g.onState s) = g.onState (haltRx s) := by
  simp only [haltRx_eq]; rfl

theorem haltTx_onState (s : State) : haltTx (g.onState s) = g.onState (haltTx s) := by
  simp only [haltTx_eq]; rfl

theorem endAttempt_onState (s : State) : endAttempt (g.onState s) = g.onState (endAttempt s) := by
  simp only [endAttempt_eq]; rfl

theorem endWriteCycle_onState (s : State) : endWriteCycle (g.onState s) = g.onState (endWriteCycle s) := by
  simp only [endWriteCycle_eq]; rfl

theorem countRead_onState (q : ReadCountPoint) (s : State) : countRead q (g.onState s) = g.onState (countRead q s) := by
  simp only [countRead_eq]; rfl

theorem raiseUnspecified_onState (u : UCode) (s : State) :
    raiseUnspecified u (g.onState s) = g.onState (raiseUnspecified u s) := by
  simp only [raiseUnspecified, onState_ufault]
  cases s.ufault <;> rfl

theorem useCall_onState (s : State) : useCall (g.onState s) = g.onState (useCall s) := by
  rw [useCall_eq (g.onState s), useCall_draws_of_draws (s := g.onState s) (t := s) rfl, useCall_eq s]; rfl

theorem useSysTime_onState (s : State) : useSysTime (g.onState s) = g.onState (useSysTime s) := by
  rw [useSysTime_eq (g.onState s), useSysTime_draws_of_draws (s := g.onState s) (t := s) rfl, useSysTime_eq s]; rfl

theorem useReset_onState (s : State) : useReset (g.onState s) = g.onState (useReset s) := by
  rw [useReset_eq (g.onState s), useReset_draws_of_draws (s := g.onState s) (t := s) rfl, useReset_eq s]; rfl

theorem useTimeout_onState (s : State) : useTimeout (g.onState s) = g.onState (useTimeout s) := by
  rw [useTimeout_eq (g.onState s), useTimeout_draws_of_draws (s := g.onState s) (t := s) rfl, useTimeout_eq s]; rfl

theorem dropRemainder_onState (s : State) : dropRemainder (g.onState s) = g.onState (dropRemainder s) := by
  simp only [dropRemainder, onState_wrTimeoutPolicy]
  cases s.cfg.wrTimeoutPolicy <;> rfl

/-- A step is taken in the relabelled state when it is taken in the state. -/
theorem whenEnabled_onState (b : Bool) {s t t' : State} (h : t' = g.onState t) :
    whenEnabled b (g.onState s) t' = mapNext g.onState (whenEnabled b s t) := by
  subst h
  simp only [whenEnabled, onState_ufault]
  cases s.ufault with
  | some u => rfl
  | none => cases b <;> rfl

/-! ### Dispatch -/

theorem exceptionDiag_onState (x : RxException) (s : State) :
    exceptionDiag x (g.onState s) = g.onState (exceptionDiag x s) := by cases x <;> rfl

theorem takeRxException_onState (x : RxException) (s : State) :
    takeRxException x (g.onState s) = g.onState (takeRxException x s) := by
  simp only [takeRxException, onState_mode]
  cases s.cfg.mode with
  | threaded => rw [exceptionDiag_onState, haltRx_onState]
  | singleStep => exact endAttempt_onState g s

theorem endDispatch_onActions (r : State × Ending) : endDispatch (g.onActions r) = g.onState (endDispatch r) := by
  obtain ⟨t, ending⟩ := r
  cases ending with
  | done => exact endAttempt_onState g t
  | raised e => exact takeRxException_onState g _ t
  | unspecified u => exact raiseUnspecified_onState g u t

theorem dispatchStep_onState {s : State} {r r' : State × Ending} (h : r' = g.onActions r) :
    dispatchStep (g.onState s) r' = mapNext g.onState (dispatchStep s r) :=
  whenEnabled_onState g (rxAtDispatch s) (by rw [h, endDispatch_onActions])

theorem callDelegate_onState (e : DelCall) (s : State) : callDelegate e (g.onState s) = g.onActions (callDelegate e s) := by
  have huse : useCall (emit (.del e) (g.onState s)) = g.onState (useCall (emit (.del e) s)) := useCall_onState g (emit _ s)
  simp only [callDelegate, huse, nextCall_of_draws (onState_draws g s)]
  cases nextCall s <;> rfl

theorem logActions_onState (l : LogLevel) (p : List Byte) (s : State) :
    logActions l p (g.onState s) = g.onActions (logActions l p s) := by
  unfold logActions
  split_ifs
  · exact callDelegate_onState g _ s
  · rfl

theorem paramActions_onState (p : List Byte) (s : State) :
    paramActions p (g.onState s) = g.onActions (paramActions p s) := by
  unfold paramActions
  split_ifs
  · exact callDelegate_onState g _ (countParam s)
  · rfl

theorem timeSyncAnswered_onState (p : List Byte) (a : SysTimeAnswer) (s : State) :
    timeSyncAnswered p a (g.onState s) = g.onActions (timeSyncAnswered p a s) := by cases a <;> rfl

theorem timeSyncActions_onState (p : List Byte) (s : State) :
    timeSyncActions p (g.onState s) = g.onActions (timeSyncActions p s) := by
  have huse : useSysTime (emit (.del .sysTime) (g.onState s)) = g.onState (useSysTime (emit (.del .sysTime) s)) :=
    useSysTime_onState g (emit _ s)
  unfold timeSyncActions
  split_ifs
  · rfl
  · rw [huse, nextSysTime_of_draws (onState_draws g s), timeSyncAnswered_onState]

/-! ### The HOST operations -/

theorem startActions_onState (s : State) : startActions (g.onState s) = g.onState (startActions s) := by
  have huse : useReset (emit .xptReset (g.onState s)) = g.onState (useReset (emit .xptReset s)) :=
    useReset_onState g (emit _ s)
  simp only [startActions, onState_started, onState_stopNotified, huse, nextReset_of_draws (onState_draws g s)]
  split_ifs
  · exact raiseUnspecified_onState g _ s
  · cases nextReset s with
    | ok => rfl
    | fail => exact raiseUnspecified_onState g _ _

theorem stepActions_onState (s : State) : stepActions (g.onState s) = g.onState (stepActions s) := by
  simp only [stepActions, onState_mode]
  cases s.cfg.mode with
  | threaded => exact raiseUnspecified_onState g _ s
  | singleStep => exact ite_onState g rfl rfl

/-! ### The Writer -/

theorem txAccepted_onState (s : State) : txAccepted (g.onState s) = g.onState (txAccepted s) := by
  exact ite_onState g (endWriteCycle_onState g { s with txState := .idle }) rfl

theorem txTimedOutSingle_onState (s : State) : txTimedOutSingle (g.onState s) = g.onState (txTimedOutSingle s) := by
  have hdiag : diag (.txTimeout s.txOff s.txCur.length) (useTimeout (g.onState s))
      = g.onState (diag (.txTimeout s.txOff s.txCur.length) (useTimeout s)) := by rw [useTimeout_onState]; rfl
  simp only [txTimedOutSingle, onState_txOff, onState_txCur, onState_wrTimeoutPolicy, hdiag, stopBlock_onState,
    nextTimeout_of_draws (onState_draws g s)]
  cases nextTimeout s <;> rfl

theorem txTimedOut_onState (s : State) : txTimedOut (g.onState s) = g.onState (txTimedOut s) := by
  simp only [txTimedOut, onState_mode]
  cases s.cfg.mode with
  | threaded => exact dropRemainder_onState g { diag (.txTimeout s.txOff s.txCur.length) s with txState := .pause }
  | singleStep => exact txTimedOutSingle_onState g s

theorem txFaulted_onState (s : State) : txFaulted (g.onState s) = g.onState (txFaulted s) := by
  have hstop : stopBlock (diag (.txFault s.txOff s.txCur.length) (g.onState s))
      = g.onState (stopBlock (diag (.txFault s.txOff s.txCur.length) s)) := stopBlock_onState g (diag _ s)
  simp only [txFaulted, onState_mode, onState_txOff, onState_txCur, hstop]
  cases s.cfg.mode with
  | threaded => exact haltTx_onState g (diag _ s)
  | singleStep => rfl

theorem txAnswered_onState (a : WriteAnswer) (s : State) : txAnswered a (g.onState s) = g.onState (txAnswered a s) := by
  cases a with
  | accept k => exact txAccepted_onState g (txAccept k s)
  | timeout k => exact txTimedOut_onState g (txAccept k s)
  | fault k => exact txFaulted_onState g (txAccept k s)

theorem txDequeue_onState (s : State) : txDequeue (g.onState s) = g.onState (txDequeue s) := by
  simp only [txDequeue, onState_queue]
  cases s.queue with
  | nil => exact endWriteCycle_onState g s
  | cons f rest => rfl

theorem txIdleStep_onState (s : State) : txIdleStep (g.onState s) = g.onState (txIdleStep s) := by
  exact ite_onState g (haltTx_onState g s) (txDequeue_onState g s)

theorem txPauseStep_onState (s : State) : txPauseStep (g.onState s) = g.onState (txPauseStep s) := by
  simp only [txPauseStep, onState_mode]
  cases s.cfg.mode with
  | singleStep => rfl
  | threaded => exact ite_onState g (haltTx_onState g s) rfl

theorem writerStep_onState (s : State) : writerStep (g.onState s) = g.onState (writerStep s) := by
  simp only [writerStep, onState_txState]
  cases s.txState with
  | idle => exact txIdleStep_onState g s
  | pause => exact txPauseStep_onState g s
  | busy => rfl
  | halt => rfl

/-! ### The Reader -/

theorem readSync1_onState (b : Byte) (s : State) : readSync1 b (g.onState s) = g.onState (readSync1 b s) := by
  exact ite_onState g rfl (endAttempt_onState g (diag _ s))

theorem readSync2_onState (b : Byte) (s : State) : readSync2 b (g.onState s) = g.onState (readSync2 b s) := by
  exact ite_onState g rfl (endAttempt_onState g (diag _ s))

theorem afterLen_onState (s : State) : afterLen (g.onState s) = g.onState (afterLen s) := by
  have hcount := countRead_onState g .onPayload s
  exact ite_onState g (congrArg (fun t : State => { t with rxState := .csum }) hcount) rfl

theorem afterPayload_onState (s : State) : afterPayload (g.onState s) = g.onState (afterPayload s) := by
  have hcount := countRead_onState g .onPayload s
  exact ite_onState g (congrArg (fun t : State => { t with rxState := .csum }) hcount) rfl

theorem readCsum_onState (k : Byte) (s : State) : readCsum k (g.onState s) = g.onState (readCsum k s) := by
  have hcount := countRead_onState g .onAccept s
  exact ite_onState g (congrArg (fun t : State => { t with rxState := .dispatch }) hcount)
    (endAttempt_onState g (diag _ s))

theorem readByte_onState (b : Byte) (rest : List Byte) (s : State) :
    readByte b rest (g.onState s) = g.onState (readByte b rest s) := by
  simp only [readByte, onState_rxState]
  cases s.rxState with
  | sync1 => exact readSync1_onState g b (rxTake rest s)
  | sync2 => exact readSync2_onState g b (rxTake rest s)
  | cmd => rfl
  | len =>
    have hhigh := afterLen_onState g { rxTake rest s with rxLen := setLenHi s.rxLen b, rxIdx := 0#16 }
    exact ite_onState g rfl (ite_onState g hhigh rfl)
  | payload => exact ite_onState g (afterPayload_onState g (storePayload b (rxTake rest s))) rfl
  | csum => exact readCsum_onState g b (rxTake rest s)
  | dispatch => rfl
  | halt => rfl

theorem readNothing_onState (s : State) : readNothing (g.onState s) = g.onState (readNothing s) := by
  simp only [readNothing, onState_rxState]
  cases s.rxState with
  | sync1 => exact endAttempt_onState g s
  | _ => rfl

theorem readerStep_onState (s : State) : readerStep (g.onState s) = g.onState (readerStep s) := by
  simp only [readerStep, onState_rxFifo]
  refine ite_onState g (haltRx_onState g s) ?_
  cases s.rxFifo with
  | nil => exact readNothing_onState g s
  | cons b rest => exact readByte_onState g b rest s

/-! ### Every move -/

theorem exec_onState (i : Instr) (s : State) : exec i (g.onState s) = mapNext g.onState (exec i s) := by
  cases i with
  | unknown00 p => exact dispatchStep_onState g rfl
  | unknown0607 l p => exact dispatchStep_onState g rfl
  | unknown09 p => exact dispatchStep_onState g rfl
  | unknown0A0B l p => exact dispatchStep_onState g rfl
  | unknown0C0F l p => exact dispatchStep_onState g rfl
  | publish101F l p => exact dispatchStep_onState g (callDelegate_onState g _ s)
  | publish203F l p => exact dispatchStep_onState g (callDelegate_onState g _ s)
  | publish407F l p => exact dispatchStep_onState g (callDelegate_onState g _ s)
  | publish80FF l p => exact dispatchStep_onState g (callDelegate_onState g _ s)
  | logDebug p => exact dispatchStep_onState g (logActions_onState g _ p s)
  | logInfo p => exact dispatchStep_onState g (logActions_onState g _ p s)
  | logWarn p => exact dispatchStep_onState g (logActions_onState g _ p s)
  | logError p => exact dispatchStep_onState g (logActions_onState g _ p s)
  | paramReq p => exact dispatchStep_onState g (paramActions_onState g p s)
  | timeSync p => exact dispatchStep_onState g (timeSyncActions_onState g p s)
  | start => exact whenEnabled_onState g (hostMayCall s) (startActions_onState g s)
  | stop => exact whenEnabled_onState g (hostMayCall s) (stopBlock_onState g s)
  | sendCommand c p => exact whenEnabled_onState g (hostMayCall s) rfl
  | step => exact whenEnabled_onState g (hostMayCall s) (stepActions_onState g s)
  | statusRead => rfl
  | xptByte b => rfl
  | xptTimeout => exact whenEnabled_onState g (rxMayStep s && rxWaiting s) (takeRxException_onState g _ s)
  | xptIoerr => exact whenEnabled_onState g (rxMayStep s && rxCallsTransport s) (takeRxException_onState g _ s)
  | xptWriteAnswer a =>
    exact whenEnabled_onState g (txWriting s && answerFits a (txRemaining s)) (txAnswered_onState g a s)
  | delSystimeAnswer a =>
    have hactions := timeSyncActions_onState g (rxPayload s) (offerSysTime a s)
    exact whenEnabled_onState g (sysTimeCalled s) ((congrArg endDispatch hactions).trans (endDispatch_onActions g _))
  | delParamResult k v => exact whenEnabled_onState g (decide (k < s.paramIssued)) rfl

theorem rxMove_onState (s : State) : rxMove (g.onState s) = mapNext g.onState (rxMove s) := by
  have hfetched : fetched (g.onState s) = fetched s := rfl
  simp only [rxMove, hfetched, onState_rxState]
  split_ifs
  · exact exec_onState g _ s
  · exact whenEnabled_onState g (rxMayStep s) (readerStep_onState g s)

/-- A move of the relabelled state is the move of the state, relabelled. -/
theorem runMove_onState (m : Move) (s : State) : runMove m (g.onState s) = mapNext g.onState (runMove m s) := by
  cases m with
  | rx => exact rxMove_onState g s
  | rxExit => exact whenEnabled_onState g (rxMayExit s) (haltRx_onState g s)
  | tx => exact whenEnabled_onState g (txMayStep s) (writerStep_onState g s)
  | txExit => exact whenEnabled_onState g (txMayExit s) (haltTx_onState g s)
  | input i =>
    simp only [runMove, inputMove]
    split_ifs
    · exact exec_onState g i s
    · rfl

end Sys2Proof.Scope
end

section
/-! SUPPORT. The durations and the schedule are relabellings: the obligations DurationsAreNeverRead and ScheduleIsNotRead. -/

namespace Sys2Proof.Scope

open Sys2Proof.Machine

/-- Settles O22: other durations are a relabelling, and neither `nextMove` nor `takeMove` looks at them. -/
theorem durationsAreNeverRead : Obligations.DurationsAreNeverRead := by
  intro s d
  rw [withDurations_eq_onState]
  exact runMove_onState _ (nextMove s) (takeMove s)

theorem runMove_takeMove (m : Move) (s : State) : runMove m (takeMove s) = mapNext takeMove (runMove m s) := by
  rw [takeMove_eq_onState]
  exact runMove_onState _ m s

/-- Settles O55: taking a move off the schedule is a relabelling. -/
theorem scheduleIsNotRead : Obligations.ScheduleIsNotRead :=
  ⟨runMove_takeMove, fun s => runMove_takeMove (nextMove s) s⟩

end Sys2Proof.Scope
end

section
/-! SUPPORT. What HOST reads (R45), the obligation StatusReadResult; and that every step keeps the block's invariant, the
obligation StepKeepsBlockInvariant. A clause of `BlockInv` none of whose registers an operation writes is kept by unfolding;
the lemmas below say why the others are kept. -/

namespace Sys2Proof.Invariant

open Sys2Proof.Machine Sys2Proof.Laws

/-- Settles O41: `exec`'s arm latches `status`, whose fields are the five outputs. -/
theorem statusReadResult : Obligations.StatusReadResult := by
  intro s
  rfl

variable {s : State}

/-! ### The clauses -/

theorem rxBuf_wf (h : BlockInv s) : s.rxBuf.wf = true := by
  obtain ⟨-, -, ⟨-, -, -, -, hbuf⟩, -, -⟩ := h
  exact hbuf

theorem modeInv_of_threaded (hm : s.cfg.mode = .threaded) (hp : s.ssPhase = .none) : ModeInv s := by
  simp [ModeInv, hm, hp]

/-- A queued frame has a byte to write, since no encoder output is empty. -/
theorem queued_ne_nil {f : List Byte} (h : QueueInv s) (hf : f ∈ s.queue) : f ≠ [] := by
  obtain ⟨c, p, rfl⟩ := h f hf
  exact encodeTx_ne_nil _ c p

/-- An event that neither count of the trace counts. -/
def Uncounted (e : Event) : Prop := e ≠ .stopped ∧ isGetParam e = false

theorem uncounted_diag (d : Diag) : Uncounted (.diag d) := ⟨nofun, rfl⟩

theorem stoppedCount_append_singleton {e : Event} (he : e ≠ .stopped) (es : List Event) :
    stoppedCount (es ++ [e]) = stoppedCount es := by
  simp [stoppedCount, he]

theorem traceInv_emit {e : Event} (h : TraceInv s) (he : Uncounted e) : TraceInv (emit e s) := by
  obtain ⟨hstopped, hparam⟩ := h
  obtain ⟨hne, hget⟩ := he
  exact ⟨(stoppedCount_append_singleton hne _).trans hstopped, by simpa [hget] using hparam⟩

/-- A request is counted and recorded in one step (R27, R220). -/
theorem traceInv_getParam (k : Nat) (p : List Byte) (h : TraceInv s) :
    TraceInv (emit (.del (.getParam k p)) (countParam s)) := by
  obtain ⟨hstopped, hparam⟩ := h
  exact ⟨(stoppedCount_append_singleton (by simp) _).trans hstopped, by simpa [isGetParam] using hparam⟩

/-- `Stop()` records `STOPPED` the first time only (R180, R187). -/
theorem traceInv_stopEvents (h : TraceInv s) :
    TraceInv { s with stopNotified := true, events := s.events ++ stopEvents s } := by
  obtain ⟨hstopped, hparam⟩ := h
  cases hn : s.stopNotified with
  | false => simp_all [TraceInv, stoppedCount, stopEvents, isGetParam]
  | true => simp_all [TraceInv, stopEvents]

/-! ### The operations of every agent -/

theorem blockInv_emit {e : Event} (h : BlockInv s) (he : Uncounted e) : BlockInv (emit e s) := by
  obtain ⟨hlife, hmode, hpos, hqueue, htrace⟩ := h
  exact ⟨hlife, hmode, hpos, hqueue, traceInv_emit htrace he⟩

theorem blockInv_diag (d : Diag) (h : BlockInv s) : BlockInv (diag d s) := blockInv_emit h (uncounted_diag d)

theorem blockInv_getParam (k : Nat) (p : List Byte) (h : BlockInv s) :
    BlockInv (emit (.del (.getParam k p)) (countParam s)) := by
  obtain ⟨hlife, hmode, hpos, hqueue, htrace⟩ := h
  exact ⟨hlife, hmode, hpos, hqueue, traceInv_getParam k p htrace⟩

/-- What is enqueued is an encoder output (R117). -/
theorem blockInv_sendFrame (c : Byte) (p : List Byte) (h : BlockInv s) : BlockInv (sendFrame c p s) := by
  obtain ⟨hlife, hmode, hpos, hqueue, htrace⟩ := h
  have hqueue' : QueueInv (sendFrame c p s) := fun f hf => by
    obtain hf | rfl : f ∈ s.queue ∨ f = encodeTx s.cfg.txLenBytes c p := by simpa using hf
    · exact hqueue f hf
    · exact ⟨c, p, rfl⟩
  exact ⟨hlife, hmode, hpos, hqueue', htrace⟩

theorem blockInv_raiseUnspecified (u : UCode) (h : BlockInv s) : BlockInv (raiseUnspecified u s) := by
  unfold raiseUnspecified
  split
  · exact h
  · exact h

/-- Outside a `step` call the block can be stopped at any time (R181). -/
theorem blockInv_stopBlock (h : BlockInv s) (hphase : s.ssPhase = .none) : BlockInv (stopBlock s) := by
  obtain ⟨⟨hoff, -⟩, ⟨-, hstates, hdecode, -⟩, hpos, hqueue, htrace⟩ := h
  rw [stopBlock_eq]
  exact ⟨⟨hoff, nofun, fun _ _ => rfl, fun _ => rfl, fun _ => rfl⟩,
    ⟨fun _ => hphase, hstates, hdecode, fun _ hcall => absurd hphase hcall⟩, hpos, hqueue, traceInv_stopEvents htrace⟩

/-- RX of a THREADED block that was started may stop it and halt (R161 to R163). -/
theorem blockInv_haltRx (h : BlockInv s) (hm : s.cfg.mode = .threaded) (hs : s.started = true) : BlockInv (haltRx s) := by
  obtain ⟨-, ⟨hphase, -⟩, ⟨-, -, hbusy, hpause, hbuf⟩, hqueue, htrace⟩ := h
  rw [haltRx_eq]
  exact ⟨⟨by simp [hs], nofun, fun _ _ => rfl, fun _ => rfl, fun _ => rfl⟩, modeInv_of_threaded hm (hphase hm),
    ⟨nofun, nofun, hbusy, hpause, hbuf⟩, hqueue, traceInv_stopEvents htrace⟩

/-- The same of TX (R171, R175 to R177). -/
theorem blockInv_haltTx (h : BlockInv s) (hm : s.cfg.mode = .threaded) (hs : s.started = true) : BlockInv (haltTx s) := by
  obtain ⟨-, ⟨hphase, -⟩, ⟨hlen, hpayload, -, -, hbuf⟩, hqueue, htrace⟩ := h
  rw [haltTx_eq]
  exact ⟨⟨by simp [hs], nofun, fun _ _ => rfl, fun _ => rfl, fun _ => rfl⟩, modeInv_of_threaded hm (hphase hm),
    ⟨hlen, hpayload, nofun, nofun, hbuf⟩, hqueue, traceInv_stopEvents htrace⟩

/-! ### The HOST operations -/

/-- `start` leaves both loops at their first states, between calls (R182). -/
theorem blockInv_activate (h : BlockInv s) (hn : s.stopNotified = false) : BlockInv (activate s) := by
  obtain ⟨-, -, ⟨-, -, -, -, hbuf⟩, hqueue, htrace⟩ := h
  have hmode : ModeInv (activate s) := by simp [ModeInv]
  exact ⟨⟨nofun, fun _ => ⟨rfl, hn⟩, nofun, nofun, nofun⟩, hmode, ⟨nofun, nofun, nofun, nofun, hbuf⟩, hqueue, htrace⟩

theorem blockInv_startActions (h : BlockInv s) : BlockInv (startActions s) := by
  have hused : BlockInv (useReset (emit .xptReset s)) := by
    rw [useReset_eq]
    exact blockInv_emit h ⟨nofun, rfl⟩
  unfold startActions
  split
  · exact blockInv_raiseUnspecified _ h
  next hmisuse =>
    have hn : s.stopNotified = false := by simp_all
    split
    · exact blockInv_activate hused (by simpa using hn)
    · exact blockInv_raiseUnspecified _ hused

/-- A call starts on a block that is alive (R184). -/
theorem blockInv_stepActions (h : BlockInv s) : BlockInv (stepActions s) := by
  unfold stepActions
  split
  · exact blockInv_raiseUnspecified _ h
  next hm =>
    split
    next hlive =>
      obtain ⟨hs, ha⟩ : s.started = true ∧ s.alive = true := by simpa using hlive
      obtain ⟨⟨-, hflags⟩, ⟨-, hstates, -⟩, hpos, hqueue, htrace⟩ := h
      exact ⟨⟨by simp [hs], hflags⟩, ⟨by simp [hm], hstates, by simp, fun _ _ => ha⟩, hpos, hqueue, htrace⟩
    · exact h

/-- A call is in progress only while the block is alive (R184). -/
theorem alive_of_call (h : BlockInv s) (hm : s.cfg.mode = .singleStep) (hp : s.ssPhase ≠ .none) :
    s.started = true ∧ s.alive = true := by
  obtain ⟨⟨-, hlive, -⟩, ⟨-, -, -, hcall⟩, -⟩ := h
  have ha := hcall hm hp
  exact ⟨(hlive ha).1, ha⟩

/-! ### RX's steps -/

/-- A state with the invariant in which RX may step (R160). -/
def RxReady (s : State) : Prop := BlockInv s ∧ rxMayStep s = true

theorem RxReady.cases (h : RxReady s) :
    s.started = true ∧ (s.cfg.mode = .threaded ∨ s.cfg.mode = .singleStep ∧ s.ssPhase = .decode ∧ s.alive = true) := by
  obtain ⟨-, -, ⟨hm, hs⟩ | ⟨hm, hp⟩⟩ := (rxMayStep_iff s).mp h.2
  · exact ⟨hs, .inl hm⟩
  · obtain ⟨hs, ha⟩ := alive_of_call h.1 hm (by simp [hp])
    exact ⟨hs, .inr ⟨hm, hp, ha⟩⟩

/-- RX may write its registers as its position clauses allow; only a halt needs a stop. -/
theorem blockInv_rxWrite {r : RxState} {cmd : Byte} {len idx : BitVec 16} {buf : Memory} {fifo : List Byte}
    {count : Nat} (h : RxReady s) (hbuf : buf.wf = true) (hr : r ≠ .halt) (hlen : r = .len → idx = 0#16 ∨ idx = 1#16)
    (hpayload : r = .payload → idx < len) :
    BlockInv { s with
      rxState := r, rxCmd := cmd, rxLen := len, rxIdx := idx, rxBuf := buf, rxFifo := fifo, readCount := count } := by
  obtain ⟨hs, hagent⟩ := h.cases
  obtain ⟨⟨-, hlive, hdead, -, htx⟩, ⟨hphase, hstates, -, hcall⟩, ⟨-, -, hbusy, hpause, -⟩, hqueue, htrace⟩ := h.1
  have hdecode : s.cfg.mode = .singleStep → s.ssPhase ≠ .decode → r = .sync1 := by
    obtain hm | ⟨-, hp, -⟩ := hagent
    · simp [hm]
    · simp [hp]
  exact ⟨⟨by simp [hs], hlive, hdead, (absurd · hr), htx⟩, ⟨hphase, fun hm => ⟨hr, (hstates hm).2⟩, hdecode, hcall⟩,
    ⟨hlen, hpayload, hbusy, hpause, hbuf⟩, hqueue, htrace⟩

theorem rxReady_emit {e : Event} (h : RxReady s) (he : Uncounted e) : RxReady (emit e s) := ⟨blockInv_emit h.1 he, h.2⟩

theorem rxReady_diag (d : Diag) (h : RxReady s) : RxReady (diag d s) := rxReady_emit h (uncounted_diag d)

theorem rxReady_useCall (h : RxReady s) : RxReady (useCall s) := by
  rw [useCall_eq]
  exact h

theorem rxReady_useSysTime (h : RxReady s) : RxReady (useSysTime s) := by
  rw [useSysTime_eq]
  exact h

/-- The end of an attempt gives a single-step call over to its write cycle (R185). -/
theorem blockInv_endAttempt (h : RxReady s) : BlockInv (endAttempt s) := by
  obtain ⟨hs, hagent⟩ := h.cases
  obtain ⟨⟨-, hlive, hdead, -, htx⟩, ⟨hphase, hstates, -⟩, ⟨-, -, hbusy, hpause, hbuf⟩, hqueue, htrace⟩ := h.1
  have hmode : ModeInv { s with rxState := .sync1, ssPhase := phaseAfterAttempt s } := by
    obtain hm | ⟨hm, -, ha⟩ := hagent
    · exact modeInv_of_threaded hm (by simp [phaseAfterAttempt, hm, hphase])
    · exact ⟨by simp [hm], fun _ => ⟨nofun, (hstates hm).2⟩, fun _ _ => rfl, fun _ _ => ha⟩
  rw [endAttempt_eq]
  exact ⟨⟨by simp [hs], hlive, hdead, nofun, htx⟩, hmode, ⟨nofun, nofun, hbusy, hpause, hbuf⟩, hqueue, htrace⟩

theorem blockInv_takeRxException (x : RxException) (h : RxReady s) : BlockInv (takeRxException x s) := by
  obtain ⟨hs, -⟩ := h.cases
  unfold takeRxException
  split
  next hm =>
    obtain hx | ⟨d, hx⟩ := exceptionDiag_cases x s <;> rw [hx]
    · exact blockInv_haltRx h.1 hm hs
    · exact blockInv_haltRx (blockInv_diag d h.1) hm hs
  · exact blockInv_endAttempt h

/-! ### Dispatch -/

theorem rxReady_of_atDispatch (h : BlockInv s) (hd : rxAtDispatch s = true) : RxReady s :=
  ⟨h, ((rxAtDispatch_iff s).mp hd).1⟩

theorem blockInv_endDispatch {r : State × Ending} (h : RxReady r.1) : BlockInv (endDispatch r) := by
  unfold endDispatch
  split
  · exact blockInv_endAttempt h
  · exact blockInv_takeRxException _ h
  · exact blockInv_raiseUnspecified _ h.1

/-- A call's event is made whether the call succeeds or fails. -/
theorem rxReady_callDelegate {e : DelCall} (h : RxReady (emit (.del e) s)) : RxReady (callDelegate e s).1 := by
  obtain hc | hc := callDelegate_cases e s <;> rw [hc] <;> exact rxReady_useCall h

theorem rxReady_publishActions (c : Byte) (p : List Byte) (h : RxReady s) : RxReady (publishActions c p s).1 :=
  rxReady_callDelegate (rxReady_emit h ⟨nofun, rfl⟩)

theorem rxReady_logActions (l : LogLevel) (p : List Byte) (h : RxReady s) : RxReady (logActions l p s).1 := by
  unfold logActions
  split
  · exact rxReady_callDelegate (rxReady_emit h ⟨nofun, rfl⟩)
  · exact h

theorem rxReady_paramActions (p : List Byte) (h : RxReady s) : RxReady (paramActions p s).1 := by
  unfold paramActions
  split
  · exact rxReady_callDelegate (s := countParam s) ⟨blockInv_getParam _ p h.1, h.2⟩
  · exact h

theorem rxReady_timeSyncAnswered (p : List Byte) (a : SysTimeAnswer) (h : RxReady s) :
    RxReady (timeSyncAnswered p a s).1 := by
  cases a with
  | time hs hn =>
    have hsent : RxReady (sendFrame 0x01#8 (timeReply hs hn) s) := ⟨blockInv_sendFrame _ _ h.1, h.2⟩
    exact rxReady_diag (s := setTimeSynced (sendFrame 0x01#8 (timeReply hs hn) s)) _ hsent
  | error => exact h

theorem rxReady_timeSyncActions (p : List Byte) (h : RxReady s) : RxReady (timeSyncActions p s).1 := by
  unfold timeSyncActions
  split
  · exact h
  · exact rxReady_timeSyncAnswered p _ (rxReady_useSysTime (rxReady_emit h ⟨nofun, rfl⟩))

/-! ### The Reader -/

/-- A dropped byte or frame: the diagnostic, then the end of the attempt (R122, R124, R135). -/
theorem blockInv_drop (d : Diag) (h : RxReady s) : BlockInv (endAttempt (diag d s)) :=
  blockInv_endAttempt (rxReady_diag d h)

theorem blockInv_readSync1 (b : Byte) (h : RxReady s) : BlockInv (readSync1 b s) := by
  unfold readSync1
  split
  · exact blockInv_rxWrite h (rxBuf_wf h.1) (by simp) (by simp) (by simp)
  · exact blockInv_drop _ h

theorem blockInv_readSync2 (b : Byte) (h : RxReady s) : BlockInv (readSync2 b s) := by
  unfold readSync2
  split
  · exact blockInv_rxWrite h (rxBuf_wf h.1) (by simp) (by simp) (by simp)
  · exact blockInv_drop _ h

theorem blockInv_readCmd (b : Byte) (h : RxReady s) : BlockInv (readCmd b s) :=
  blockInv_rxWrite h (rxBuf_wf h.1) (by simp) (fun _ => .inl rfl) (by simp)

theorem blockInv_readLenLo (b : Byte) (h : RxReady s) (hst : s.rxState = .len) : BlockInv (readLenLo b s) :=
  blockInv_rxWrite h (rxBuf_wf h.1) (by simp [hst]) (fun _ => .inr rfl) (by simp [hst])

/-- A payload that is not empty is read from its first byte on (R130). -/
theorem blockInv_readLenHi (b : Byte) (h : RxReady s) : BlockInv (readLenHi b s) := by
  have hbuf := rxBuf_wf h.1
  unfold readLenHi afterLen
  split
  · rw [countRead_eq]
    exact blockInv_rxWrite (s := s) h hbuf (by simp) (by simp) (by simp)
  next hlen =>
    have hne : setLenHi s.rxLen b ≠ 0#16 := hlen
    exact blockInv_rxWrite (s := s) h hbuf (by simp) (by simp) fun _ => by bv_omega

/-- A payload byte that is not the last leaves the position inside the payload (R132). -/
theorem blockInv_readPayload (b : Byte) (h : RxReady s) (hst : s.rxState = .payload) (hlt : s.rxIdx < s.rxLen) :
    BlockInv (readPayload b s) := by
  have hbuf := wf_storePayload b s (rxBuf_wf h.1) hlt
  unfold readPayload afterPayload
  split
  · rw [countRead_eq]
    exact blockInv_rxWrite (s := s) h hbuf (by simp) (by simp) (by simp)
  next hmore =>
    have hnext : s.rxIdx + 1#16 ≠ s.rxLen := hmore
    exact blockInv_rxWrite h hbuf (by simp [hst]) (by simp [hst]) fun _ => by bv_omega

theorem blockInv_readCsum (k : Byte) (h : RxReady s) : BlockInv (readCsum k s) := by
  unfold readCsum
  split
  · rw [countRead_eq]
    exact blockInv_rxWrite h (rxBuf_wf h.1) (by simp) (by simp) (by simp)
  · exact blockInv_drop _ h

theorem blockInv_readByte (b : Byte) (rest : List Byte) (h : RxReady s) : BlockInv (readByte b rest s) := by
  have htake : RxReady (rxTake rest s) := h
  unfold readByte
  cases hst : s.rxState with
  | sync1 => exact blockInv_readSync1 b htake
  | sync2 => exact blockInv_readSync2 b htake
  | cmd => exact blockInv_readCmd b htake
  | len =>
    dsimp only
    split_ifs
    · exact blockInv_readLenLo b htake hst
    · exact blockInv_readLenHi b htake
    · exact h.1
  | payload =>
    dsimp only
    split_ifs with hlt
    · exact blockInv_readPayload b htake hst hlt
    · exact h.1
  | csum => exact blockInv_readCsum b htake
  | dispatch => exact h.1
  | halt => exact h.1

theorem blockInv_readNothing (h : RxReady s) : BlockInv (readNothing s) := by
  unfold readNothing
  split
  · exact blockInv_endAttempt h
  all_goals exact h.1

theorem blockInv_readerStep (h : RxReady s) : BlockInv (readerStep s) := by
  obtain ⟨hexit, hr⟩ | ⟨-, -, hr⟩ | ⟨b, rest, -, -, hr⟩ := readerStep_cases s <;> rw [hr]
  · have hm : s.cfg.mode = .threaded := by simp_all [rxExitsAtBoundary]
    exact blockInv_haltRx h.1 hm h.cases.1
  · exact blockInv_readNothing h
  · exact blockInv_readByte b rest h

/-! ### TX's steps -/

/-- A state with the invariant in which TX may step (R170). -/
def TxReady (s : State) : Prop := BlockInv s ∧ txMayStep s = true

theorem TxReady.cases (h : TxReady s) :
    s.started = true ∧ (s.cfg.mode = .threaded ∨ s.cfg.mode = .singleStep ∧ s.ssPhase = .write ∧ s.alive = true) := by
  obtain ⟨-, -, ⟨hm, hs⟩ | ⟨hm, hp⟩⟩ := (txMayStep_iff s).mp h.2
  · exact ⟨hs, .inl hm⟩
  · obtain ⟨hs, ha⟩ := alive_of_call h.1 hm (by simp [hp])
    exact ⟨hs, .inr ⟨hm, hp, ha⟩⟩

/-- TX may write its registers as its position clauses allow; only a halt needs a stop, and the pause is THREADED. -/
theorem txReady_txWrite {x : TxState} {cur : List Byte} {off : Nat} {wire : List Byte} {d : Draws} (h : TxReady s)
    (hx : x ≠ .halt) (hbusy : x = .busy → off < cur.length)
    (hpause : x = .pause → s.cfg.mode = .threaded ∧ (s.cfg.wrTimeoutPolicy = .retryRemainder → off < cur.length)) :
    TxReady { s with txState := x, txCur := cur, txOff := off, txWire := wire, draws := d } := by
  have hmay : txMayStep { s with txState := x, txCur := cur, txOff := off, txWire := wire, draws := d } = true := by
    obtain ⟨hu, -, hagent⟩ := (txMayStep_iff s).mp h.2
    exact (txMayStep_iff _).mpr ⟨hu, hx, hagent⟩
  obtain ⟨hs, -⟩ := h.cases
  obtain ⟨⟨-, hlive, hdead, hrx, -⟩, ⟨hphase, hstates, hdecode, hcall⟩, ⟨hlen, hpayload, -, -, hbuf⟩, hqueue, htrace⟩ :=
    h.1
  have hstates' : s.cfg.mode = .singleStep → s.rxState ≠ .halt ∧ x ≠ .halt ∧ x ≠ .pause := fun hm =>
    ⟨(hstates hm).1, hx, fun hp => nomatch hm.symm.trans (hpause hp).1⟩
  exact ⟨⟨⟨by simp [hs], hlive, hdead, hrx, fun hh => absurd hh hx⟩, ⟨hphase, hstates', hdecode, hcall⟩,
    ⟨hlen, hpayload, hbusy, fun hp => (hpause hp).2, hbuf⟩, hqueue, htrace⟩, hmay⟩

/-- A write cycle that ends returns the call (R186). -/
theorem blockInv_return (h : TxReady s) (hm : s.cfg.mode = .singleStep) : BlockInv { s with ssPhase := .none } := by
  obtain ⟨hs, hagent⟩ := h.cases
  obtain ⟨⟨-, hflags⟩, ⟨-, hstates, hdecode, -⟩, hpos, hqueue, htrace⟩ := h.1
  obtain ⟨hp, -⟩ : s.ssPhase = .write ∧ s.alive = true := by simpa [hm] using hagent
  have hsync : s.rxState = .sync1 := hdecode hm (by simp [hp])
  exact ⟨⟨by simp [hs], hflags⟩, ⟨fun _ => rfl, hstates, fun _ _ => hsync, nofun⟩, hpos, hqueue, htrace⟩

theorem blockInv_endWriteCycle (h : TxReady s) : BlockInv (endWriteCycle s) := by
  unfold endWriteCycle
  split
  · exact h.1
  next hm => exact blockInv_return h hm

/-! ### The Writer -/

theorem txReady_diag (d : Diag) (h : TxReady s) : TxReady (diag d s) := ⟨blockInv_diag d h.1, h.2⟩

theorem txReady_useTimeout (h : TxReady s) : TxReady (useTimeout s) := by
  rw [useTimeout_eq]
  exact h

/-- `Stop()` and the return of a single-step call commute. -/
theorem stopBlock_return (s : State) :
    { stopBlock s with txState := .idle, ssPhase := .none } = stopBlock { s with txState := .idle, ssPhase := .none } := by
  rw [stopBlock_eq, stopBlock_eq]
  rfl

/-- A single-step call that ends with a stop (R186). -/
theorem blockInv_stopReturn (h : TxReady s) (hm : s.cfg.mode = .singleStep) :
    BlockInv { stopBlock s with txState := .idle, ssPhase := .none } := by
  have hidle : TxReady { s with txState := .idle } := txReady_txWrite h (by simp) (by simp) (by simp)
  rw [stopBlock_return]
  exact blockInv_stopBlock (blockInv_return hidle hm) rfl

theorem resumeState_ne_halt (p : WrTimeoutPolicy) : resumeState p ≠ .halt := by cases p <;> nofun

theorem resumeState_ne_pause (p : WrTimeoutPolicy) : resumeState p ≠ .pause := by cases p <;> nofun

theorem retry_of_resumeState_busy {p : WrTimeoutPolicy} (h : resumeState p = .busy) : p = .retryRemainder := by
  cases p with
  | retryRemainder => rfl
  | dropRemainder => cases h

theorem txReady_txAccept {k : Nat} (h : TxReady s) (hst : s.txState = .busy) (hk : s.txOff + k < s.txCur.length) :
    TxReady (txAccept k s) :=
  txReady_txWrite h (by simp [hst]) (fun _ => hk) (by simp [hst])

/-- `ACCEPT(k)` of what was offered: the frame is written in full, or its position stays inside it (R173). -/
theorem blockInv_txAccepted {k : Nat} (h : TxReady s) (hst : s.txState = .busy) (hk : s.txOff + k ≤ s.txCur.length) :
    BlockInv (txAccepted (txAccept k s)) := by
  unfold txAccepted
  split
  · exact blockInv_endWriteCycle (txReady_txWrite (s := s) h (by simp) (by simp) (by simp))
  next hmore =>
    have hne : s.txOff + k ≠ s.txCur.length := hmore
    exact (txReady_txAccept h hst (by omega)).1

/-- Under `RETRY_REMAINDER` the position stays inside the frame; under `DROP_REMAINDER` nothing is asked of it (R174). -/
theorem blockInv_dropRemainder (h : TxReady s) (hm : s.cfg.mode = .threaded) (hlt : s.txOff < s.txCur.length) :
    BlockInv (dropRemainder { s with txState := .pause }) := by
  unfold dropRemainder
  split
  · exact (txReady_txWrite h (by simp) (by simp) fun _ => ⟨hm, fun _ => hlt⟩).1
  next hdrop =>
    have hpolicy : s.cfg.wrTimeoutPolicy ≠ .retryRemainder := fun hretry => nomatch hdrop.symm.trans hretry
    exact (txReady_txWrite h (by simp) (by simp) fun _ => ⟨hm, (absurd · hpolicy)⟩).1

theorem blockInv_txTimedOutSingle (h : TxReady s) (hm : s.cfg.mode = .singleStep) (hlt : s.txOff < s.txCur.length) :
    BlockInv (txTimedOutSingle s) := by
  have hdiag : TxReady (diag (.txTimeout s.txOff s.txCur.length) (useTimeout s)) := txReady_diag _ (txReady_useTimeout h)
  unfold txTimedOutSingle
  split
  · have hresume : TxReady { diag (.txTimeout s.txOff s.txCur.length) (useTimeout s) with
        txState := resumeState s.cfg.wrTimeoutPolicy } :=
      txReady_txWrite hdiag (resumeState_ne_halt _) (fun _ => by simpa using hlt) (absurd · (resumeState_ne_pause _))
    exact blockInv_return hresume (by simpa using hm)
  · exact blockInv_stopReturn hdiag (by simpa using hm)

theorem blockInv_txTimedOut (h : TxReady s) (hlt : s.txOff < s.txCur.length) : BlockInv (txTimedOut s) := by
  unfold txTimedOut
  split
  next hm => exact blockInv_dropRemainder (txReady_diag _ h) hm hlt
  next hm => exact blockInv_txTimedOutSingle h hm hlt

theorem blockInv_txFaulted (h : TxReady s) : BlockInv (txFaulted s) := by
  have hdiag : TxReady (diag (.txFault s.txOff s.txCur.length) s) := txReady_diag _ h
  unfold txFaulted
  split
  next hm => exact blockInv_haltTx hdiag.1 hm h.cases.1
  next hm => exact blockInv_stopReturn hdiag hm

/-- XPT accepts all that was offered at most, and less when it fails (R258). -/
theorem blockInv_txAnswered {a : WriteAnswer} (h : BlockInv s) (hw : txWriting s = true)
    (hfit : answerFits a (txRemaining s) = true) : BlockInv (txAnswered a s) := by
  obtain ⟨hmay, hst, hlt⟩ := (txWriting_iff s).mp hw
  have hready : TxReady s := ⟨h, hmay⟩
  cases a with
  | accept k =>
    have hk : k ≤ s.txCur.length - s.txOff := of_decide_eq_true hfit
    exact blockInv_txAccepted hready hst (by omega)
  | timeout k =>
    have hk : k < s.txCur.length - s.txOff := of_decide_eq_true hfit
    have hin : s.txOff + k < s.txCur.length := by omega
    exact blockInv_txTimedOut (txReady_txAccept hready hst hin) hin
  | fault k =>
    have hk : k < s.txCur.length - s.txOff := of_decide_eq_true hfit
    exact blockInv_txFaulted (txReady_txAccept hready hst (by omega))

/-- A dequeued frame is an encoder output, so that it has a byte to write (R172). -/
theorem blockInv_txDequeue (h : TxReady s) : BlockInv (txDequeue s) := by
  unfold txDequeue
  split
  · exact blockInv_endWriteCycle h
  next f rest hq =>
    obtain ⟨⟨hlife, hmode, hpos, hqueue, htrace⟩, hmay⟩ := h
    have hrest : QueueInv { s with queue := rest } := fun g hg => hqueue g (by simp_all)
    have hf : f ≠ [] := queued_ne_nil hqueue (by simp [hq])
    have hready : TxReady { s with queue := rest } := ⟨⟨hlife, hmode, hpos, hrest, htrace⟩, hmay⟩
    exact (txReady_txWrite hready (by simp) (fun _ => List.length_pos_iff.mpr hf) (by simp)).1

theorem blockInv_txIdleStep (h : TxReady s) : BlockInv (txIdleStep s) := by
  unfold txIdleStep
  split
  next hexit => exact blockInv_haltTx h.1 hexit.1 h.cases.1
  · exact blockInv_txDequeue h

/-- After the pause TX writes on only under `RETRY_REMAINDER`, which kept the position inside the frame (R174, R175). -/
theorem blockInv_txPauseStep (h : TxReady s) (hst : s.txState = .pause) : BlockInv (txPauseStep s) := by
  obtain ⟨-, -, ⟨-, -, -, hpause, -⟩, -, -⟩ := h.1
  unfold txPauseStep
  split
  · exact h.1
  next hm =>
    split
    · exact blockInv_haltTx h.1 hm h.cases.1
    · exact (txReady_txWrite h (resumeState_ne_halt _) (fun hb => hpause hst (retry_of_resumeState_busy hb))
        (absurd · (resumeState_ne_pause _))).1

theorem blockInv_writerStep (h : TxReady s) : BlockInv (writerStep s) := by
  unfold writerStep
  split
  · exact blockInv_txIdleStep h
  next hst => exact blockInv_txPauseStep h hst
  · exact h.1
  · exact h.1

/-! ### Every step -/

theorem blockInv_of_effect {t : State} (h : BlockInv s) (he : Effect s t) : BlockInv t := by
  cases he with
  | unknown c p _ hd => exact blockInv_endDispatch (rxReady_diag _ (rxReady_of_atDispatch h hd))
  | publish c p _ hd => exact blockInv_endDispatch (rxReady_publishActions c p (rxReady_of_atDispatch h hd))
  | log l p _ hd => exact blockInv_endDispatch (rxReady_logActions l p (rxReady_of_atDispatch h hd))
  | param p _ hd => exact blockInv_endDispatch (rxReady_paramActions p (rxReady_of_atDispatch h hd))
  | timeSync p _ hd => exact blockInv_endDispatch (rxReady_timeSyncActions p (rxReady_of_atDispatch h hd))
  | sysTime a _ hcalled =>
    obtain ⟨hd, -, -⟩ := sysTimeCalled_cases hcalled
    exact blockInv_endDispatch (rxReady_timeSyncActions _ (s := offerSysTime a s) (rxReady_of_atDispatch h hd))
  | start => exact blockInv_startActions h
  | stop _ hcall => exact blockInv_stopBlock h ((hostMayCall_iff s).mp hcall)
  | send c p => exact blockInv_sendFrame c p h
  | call => exact blockInv_stepActions h
  | status => exact h
  | byte b => exact h
  | timeout _ hmay => exact blockInv_takeRxException _ ⟨h, hmay⟩
  | ioErr _ hmay => exact blockInv_takeRxException _ ⟨h, hmay⟩
  | write a _ hw hfit => exact blockInv_txAnswered h hw hfit
  | result k values => exact blockInv_sendFrame _ _ h
  | reader _ hmay => exact blockInv_readerStep ⟨h, hmay⟩
  | rxExit _ hexit =>
    obtain ⟨hmay, hm, -⟩ := (rxMayExit_iff s).mp hexit
    exact blockInv_haltRx h hm (RxReady.cases ⟨h, hmay⟩).1
  | writer _ hmay => exact blockInv_writerStep ⟨h, hmay⟩
  | txExit _ hexit =>
    obtain ⟨hmay, hm, -⟩ := (txMayExit_iff s).mp hexit
    exact blockInv_haltTx h hm (TxReady.cases ⟨h, hmay⟩).1

/-- Settles O18: taking a move off the schedule writes no register of the invariant, and every effect keeps it. -/
theorem stepKeepsBlockInvariant : Obligations.StepKeepsBlockInvariant := by
  intro s t h hstep
  have htake : BlockInv (takeMove s) := h
  obtain rfl | he := step_effect hstep
  · exact htake
  · exact blockInv_of_effect htake he

end Sys2Proof.Invariant
end

section
/-! SUPPORT. Every step keeps what `tx_wire` is made of (R71, R285): the obligation StepKeepsWireInvariant. RX and HOST write
no register the invariant reads; each of TX's steps moves it between a frame in progress, whole frames only, and a stop. -/

namespace Sys2Proof.Wire

open Sys2Proof.Machine Sys2Proof.Laws Sys2Proof.Scope

variable {s t : State}

/-! ### What is on the wire -/

/-- An output of the encoder. -/
def IsFrame (l : TxLenBytes) (f : List Byte) : Prop := ∃ c p, f = encodeTx l c p

/-- Whole frames, then `part`. -/
def FramesThen (l : TxLenBytes) (wire part : List Byte) : Prop :=
  ∃ fs : List (List Byte), wire = fs.flatten ++ part ∧ ∀ f ∈ fs, IsFrame l f

/-- The wire ends with what was accepted so far of the current frame. -/
def MidFrame (s : State) : Prop :=
  IsFrame s.cfg.txLenBytes s.txCur ∧ FramesThen s.cfg.txLenBytes s.txWire (s.txCur.take s.txOff)

/-- More of a frame in progress extends its part. -/
theorem FramesThen.accept {l : TxLenBytes} {wire f : List Byte} {off : Nat} (h : FramesThen l wire (f.take off)) (k : Nat) :
    FramesThen l (wire ++ (f.drop off).take k) (f.take (off + k)) := by
  obtain ⟨fs, rfl, hfs⟩ := h
  exact ⟨fs, by rw [List.take_add, List.append_assoc], hfs⟩

/-- A part that is a whole frame is one more frame. -/
theorem FramesThen.complete {l : TxLenBytes} {wire f : List Byte} (h : FramesThen l wire f) (hf : IsFrame l f) :
    FramesThen l wire [] := by
  obtain ⟨fs, rfl, hfs⟩ := h
  refine ⟨fs ++ [f], by simp, fun g hg => ?_⟩
  obtain hg | rfl : g ∈ fs ∨ g = f := by simpa using hg
  · exact hfs g hg
  · exact hf

/-! ### The invariant in each part of TX's work -/

/-- Inside a frame the invariant says how much of it is on the wire. -/
theorem wireInv_iff_midFrame (hx : s.txState = .busy ∨ s.txState = .pause) :
    WireInv s ↔ (s.cfg.wrTimeoutPolicy = .retryRemainder → MidFrame s) := by
  constructor
  · intro h hretry
    obtain ⟨fs, part, hwire, hfs, hcur, -, -⟩ := h hretry
    obtain ⟨rfl, hframe⟩ := hcur hx
    exact ⟨hframe, fs, hwire, hfs⟩
  · intro h hretry
    obtain ⟨⟨c, p, hcur⟩, fs, hwire, hfs⟩ := h hretry
    have hidle : s.txState ≠ .idle := fun hi => by simp [hi] at hx
    exact ⟨fs, _, hwire, hfs, fun _ => ⟨rfl, c, p, hcur⟩, (absurd · hidle), c, p, hcur ▸ List.take_prefix _ _⟩

theorem wireInv_of_wholeFrames (hx : s.txState = .idle)
    (h : s.cfg.wrTimeoutPolicy = .retryRemainder → FramesThen s.cfg.txLenBytes s.txWire []) : WireInv s := by
  intro hretry
  obtain ⟨fs, hwire, hfs⟩ := h hretry
  exact ⟨fs, [], hwire, hfs, by simp [hx], fun _ _ => rfl, 0#8, [], List.nil_prefix⟩

theorem wholeFrames_of_idle (h : WireInv s) (hx : s.txState = .idle) (hn : s.stopNotified = false)
    (hretry : s.cfg.wrTimeoutPolicy = .retryRemainder) : FramesThen s.cfg.txLenBytes s.txWire [] := by
  obtain ⟨fs, part, hwire, hfs, -, hidle, -⟩ := h hretry
  obtain rfl := hidle hx hn
  exact ⟨fs, hwire, hfs⟩

/-- After a stop outside a frame, the wire may end with any part of one. -/
theorem wireInv_of_stopped (h : WireInv s) (hcfg : t.cfg = s.cfg) (hwire : t.txWire = s.txWire)
    (hn : t.stopNotified = true) (hx : t.txState = .idle ∨ t.txState = .halt) : WireInv t := by
  have hout : ¬ (t.txState = .busy ∨ t.txState = .pause) := by
    obtain hx | hx := hx <;> simp [hx]
  simp only [WireInv, hcfg, hwire]
  intro hretry
  obtain ⟨fs, part, hparts, hfs, -, -, hprefix⟩ := h hretry
  exact ⟨fs, part, hparts, hfs, (absurd · hout), by simp [hn], hprefix⟩

theorem wireInv_haltTx (h : WireInv s) : WireInv (haltTx s) :=
  wireInv_of_stopped h (haltTx_cfg s) (haltTx_txWire s) (haltTx_stopNotified s) (.inr (haltTx_txState s))

/-! ### The steps that write none of TX's registers -/

/-- What TX alone writes of the registers the invariant reads. -/
def txRegs (s : State) : TxState × List Byte × Nat × List Byte := (s.txState, s.txCur, s.txOff, s.txWire)

/-- The other registers the invariant reads are one-way (R180): a stop only weakens it. -/
theorem wireInv_of_txRegs (h : WireInv s) (hf : Forward s t) (hregs : txRegs t = txRegs s) : WireInv t := by
  obtain ⟨hcfg, -, hstop, -⟩ := hf
  obtain ⟨hx, hcur, hoff, hwire⟩ : t.txState = s.txState ∧ t.txCur = s.txCur ∧ t.txOff = s.txOff ∧ t.txWire = s.txWire := by
    simpa [txRegs] using hregs
  have hrunning : t.stopNotified = false → s.stopNotified = false := by
    cases hs : s.stopNotified <;> simp_all
  simp only [WireInv, hcfg, hx, hcur, hoff, hwire]
  intro hretry
  obtain ⟨fs, part, hparts, hfs, hin, hidle, hprefix⟩ := h hretry
  exact ⟨fs, part, hparts, hfs, hin, fun hi hn => hidle hi (hrunning hn), hprefix⟩

@[simp] theorem txRegs_emit (e : Event) (s : State) : txRegs (emit e s) = txRegs s := rfl

@[simp] theorem txRegs_diag (d : Diag) (s : State) : txRegs (diag d s) = txRegs s := rfl

@[simp] theorem txRegs_sendFrame (c : Byte) (p : List Byte) (s : State) : txRegs (sendFrame c p s) = txRegs s := rfl

@[simp] theorem txRegs_countParam (s : State) : txRegs (countParam s) = txRegs s := rfl

@[simp] theorem txRegs_setTimeSynced (s : State) : txRegs (setTimeSynced s) = txRegs s := rfl

@[simp] theorem txRegs_offerSysTime (a : SysTimeAnswer) (s : State) : txRegs (offerSysTime a s) = txRegs s := rfl

@[simp] theorem txRegs_rxTake (rest : List Byte) (s : State) : txRegs (rxTake rest s) = txRegs s := rfl

@[simp] theorem txRegs_storePayload (b : Byte) (s : State) : txRegs (storePayload b s) = txRegs s := rfl

@[simp] theorem txRegs_stopBlock (s : State) : txRegs (stopBlock s) = txRegs s := by simp [txRegs]

@[simp] theorem txRegs_haltRx (s : State) : txRegs (haltRx s) = txRegs s := by simp [txRegs]

@[simp] theorem txRegs_raiseUnspecified (u : UCode) (s : State) : txRegs (raiseUnspecified u s) = txRegs s := by
  simp [txRegs]

@[simp] theorem txRegs_endAttempt (s : State) : txRegs (endAttempt s) = txRegs s := by simp [txRegs]

@[simp] theorem txRegs_countRead (q : ReadCountPoint) (s : State) : txRegs (countRead q s) = txRegs s := by simp [txRegs]

@[simp] theorem txRegs_useCall (s : State) : txRegs (useCall s) = txRegs s := by simp [txRegs]

@[simp] theorem txRegs_useSysTime (s : State) : txRegs (useSysTime s) = txRegs s := by simp [txRegs]

@[simp] theorem txRegs_useReset (s : State) : txRegs (useReset s) = txRegs s := by simp [txRegs]

@[simp] theorem txRegs_takeRxException (x : RxException) (s : State) : txRegs (takeRxException x s) = txRegs s := by
  unfold takeRxException
  split
  · obtain hx | ⟨d, hx⟩ := exceptionDiag_cases x s <;> simp [hx]
  · simp

@[simp] theorem txRegs_endDispatch (r : State × Ending) : txRegs (endDispatch r) = txRegs r.1 := by
  unfold endDispatch
  split <;> simp

@[simp] theorem txRegs_callDelegate (e : DelCall) (s : State) : txRegs (callDelegate e s).1 = txRegs s := by
  obtain h | h := callDelegate_cases e s <;> simp [h]

theorem txRegs_logActions (l : LogLevel) (p : List Byte) (s : State) : txRegs (logActions l p s).1 = txRegs s := by
  unfold logActions
  split <;> simp

theorem txRegs_paramActions (p : List Byte) (s : State) : txRegs (paramActions p s).1 = txRegs s := by
  unfold paramActions
  split <;> simp

@[simp] theorem txRegs_timeSyncAnswered (p : List Byte) (a : SysTimeAnswer) (s : State) :
    txRegs (timeSyncAnswered p a s).1 = txRegs s := by cases a <;> rfl

theorem txRegs_timeSyncActions (p : List Byte) (s : State) : txRegs (timeSyncActions p s).1 = txRegs s := by
  unfold timeSyncActions
  split <;> simp

/-- A block that was not started is in `T_IDLE` already (R182). -/
theorem txRegs_startActions (h : BlockInv s) : txRegs (startActions s) = txRegs s := by
  obtain ⟨⟨hoff, -⟩, -⟩ := h
  unfold startActions
  split
  · simp
  next hmisuse =>
    obtain ⟨-, hidle, -⟩ := hoff (by simp_all)
    split
    · simp [txRegs, hidle]
    · simp

theorem txRegs_stepActions (s : State) : txRegs (stepActions s) = txRegs s := by
  unfold stepActions
  split
  · simp
  · split <;> rfl

theorem txRegs_readSync1 (b : Byte) (s : State) : txRegs (readSync1 b s) = txRegs s := by
  unfold readSync1
  split
  · rfl
  · simp

theorem txRegs_readSync2 (b : Byte) (s : State) : txRegs (readSync2 b s) = txRegs s := by
  unfold readSync2
  split
  · rfl
  · simp

theorem txRegs_readLenHi (b : Byte) (s : State) : txRegs (readLenHi b s) = txRegs s := by
  unfold readLenHi afterLen
  split
  · exact txRegs_countRead _ { s with rxLen := setLenHi s.rxLen b, rxIdx := 0#16 }
  · rfl

theorem txRegs_readPayload (b : Byte) (s : State) : txRegs (readPayload b s) = txRegs s := by
  unfold readPayload afterPayload
  split
  · exact txRegs_countRead _ (storePayload b s)
  · rfl

theorem txRegs_readCsum (k : Byte) (s : State) : txRegs (readCsum k s) = txRegs s := by
  unfold readCsum
  split
  · exact txRegs_countRead _ s
  · simp

theorem txRegs_readByte (b : Byte) (rest : List Byte) (s : State) : txRegs (readByte b rest s) = txRegs s := by
  unfold readByte
  cases s.rxState with
  | sync1 => exact txRegs_readSync1 b (rxTake rest s)
  | sync2 => exact txRegs_readSync2 b (rxTake rest s)
  | cmd => rfl
  | len =>
    dsimp only
    split_ifs
    · rfl
    · exact txRegs_readLenHi b (rxTake rest s)
    · rfl
  | payload =>
    dsimp only
    split
    · exact txRegs_readPayload b (rxTake rest s)
    · rfl
  | csum => exact txRegs_readCsum b (rxTake rest s)
  | dispatch => rfl
  | halt => rfl

theorem txRegs_readNothing (s : State) : txRegs (readNothing s) = txRegs s := by
  unfold readNothing
  split
  · simp
  all_goals rfl

theorem txRegs_readerStep (s : State) : txRegs (readerStep s) = txRegs s := by
  obtain ⟨-, h⟩ | ⟨-, -, h⟩ | ⟨b, rest, -, -, h⟩ := readerStep_cases s <;> rw [h]
  · exact txRegs_haltRx s
  · exact txRegs_readNothing s
  · exact txRegs_readByte b rest s

/-! ### TX's steps -/

/-- Accepted bytes are the next ones of the frame (R173, R258). -/
theorem wireInv_txAccept (k : Nat) (h : WireInv s) (hst : s.txState = .busy) : WireInv (txAccept k s) := by
  refine (wireInv_iff_midFrame (s := txAccept k s) (.inl hst)).mpr fun hretry => ?_
  obtain ⟨hframe, hparts⟩ := (wireInv_iff_midFrame (.inl hst)).mp h hretry
  exact ⟨hframe, hparts.accept k⟩

/-- TX goes on with, or pauses inside, the same frame (R174, R175, R186). -/
theorem wireInv_sameFrame {x : TxState} (h : WireInv s) (hst : s.txState = .busy ∨ s.txState = .pause)
    (hx : x = .busy ∨ x = .pause) : WireInv { s with txState := x } :=
  (wireInv_iff_midFrame (s := { s with txState := x }) hx).mpr ((wireInv_iff_midFrame hst).mp h)

/-- A frame accepted in full is one more whole frame on the wire (R173). -/
theorem wireInv_frameDone (h : WireInv s) (hst : s.txState = .busy) (hall : s.txOff = s.txCur.length) :
    WireInv { s with txState := .idle } := by
  refine wireInv_of_wholeFrames rfl fun hretry => ?_
  obtain ⟨hframe, hparts⟩ := (wireInv_iff_midFrame (.inl hst)).mp h hretry
  rw [hall, List.take_length] at hparts
  exact hparts.complete hframe

theorem wireInv_endWriteCycle (h : WireInv s) : WireInv (endWriteCycle s) := by
  rw [endWriteCycle_eq]
  exact h

theorem wireInv_txAccepted (h : WireInv s) (hst : s.txState = .busy) : WireInv (txAccepted s) := by
  unfold txAccepted
  split
  next hall => exact wireInv_endWriteCycle (wireInv_frameDone h hst hall)
  · exact h

theorem wireInv_diag_useTimeout (d : Diag) (h : WireInv s) : WireInv (diag d (useTimeout s)) := by
  rw [useTimeout_eq]
  exact h

/-- Under `RETRY_REMAINDER` a timed-out frame keeps its registers, or the block stops (R174, R186). -/
theorem wireInv_txTimedOut (h : WireInv s) (hst : s.txState = .busy) (hretry : s.cfg.wrTimeoutPolicy = .retryRemainder) :
    WireInv (txTimedOut s) := by
  unfold txTimedOut
  split
  · have hkept : dropRemainder { diag (.txTimeout s.txOff s.txCur.length) s with txState := .pause } =
        { diag (.txTimeout s.txOff s.txCur.length) s with txState := .pause } := by simp [dropRemainder, hretry]
    rw [hkept]
    exact wireInv_sameFrame (s := diag _ s) h (.inl hst) (.inr rfl)
  · have hdiag := wireInv_diag_useTimeout (.txTimeout s.txOff s.txCur.length) h
    unfold txTimedOutSingle
    split
    · rw [hretry]
      exact wireInv_sameFrame hdiag (.inl (by simpa using hst)) (.inl rfl)
    · exact wireInv_of_stopped hdiag (by simp) (by simp) (by simp) (.inl rfl)

/-- A failed write stops the block (R176, R186). -/
theorem wireInv_txFaulted (h : WireInv s) : WireInv (txFaulted s) := by
  have hdiag : WireInv (diag (.txFault s.txOff s.txCur.length) s) := h
  unfold txFaulted
  split
  · exact wireInv_haltTx hdiag
  · exact wireInv_of_stopped hdiag (by simp) (by simp) (by simp) (.inl rfl)

theorem wireInv_txAnswered {a : WriteAnswer} (h : WireInv s) (hst : s.txState = .busy)
    (hretry : s.cfg.wrTimeoutPolicy = .retryRemainder) : WireInv (txAnswered a s) := by
  cases a with
  | accept k => exact wireInv_txAccepted (wireInv_txAccept k h hst) hst
  | timeout k => exact wireInv_txTimedOut (wireInv_txAccept k h hst) hst hretry
  | fault k => exact wireInv_txFaulted (wireInv_txAccept k h hst)

/-- A dequeued frame is an encoder output of which nothing is written yet (R117, R172). -/
theorem wireInv_txDequeue (hq : QueueInv s) (h : WireInv s) (hst : s.txState = .idle) (hn : s.stopNotified = false) :
    WireInv (txDequeue s) := by
  unfold txDequeue
  split
  · exact wireInv_endWriteCycle h
  next f rest hqueue =>
    have hframe : IsFrame s.cfg.txLenBytes f := hq f (by simp [hqueue])
    have hwire := wholeFrames_of_idle h hst hn
    exact (wireInv_iff_midFrame (.inl rfl)).mpr fun hretry => ⟨hframe, hwire hretry⟩

/-- TX takes a frame only while the block is alive: in `THREADED` mode by its own test (R171), in `SINGLE_STEP` mode because
a call is in progress only then (R184). -/
theorem wireInv_txIdleStep (hb : BlockInv s) (h : WireInv s) (hmay : txMayStep s = true) (hst : s.txState = .idle) :
    WireInv (txIdleStep s) := by
  unfold txIdleStep
  split
  · exact wireInv_haltTx h
  next hlive =>
    obtain ⟨-, hagent⟩ := Invariant.TxReady.cases ⟨hb, hmay⟩
    obtain ⟨⟨-, hrunning, -⟩, -, -, hqueue, -⟩ := hb
    have halive : s.alive = true := by
      obtain hm | ⟨-, -, ha⟩ := hagent
      · simpa [hm] using hlive
      · exact ha
    exact wireInv_txDequeue hqueue h hst (hrunning halive).2

theorem wireInv_txPauseStep (h : WireInv s) (hst : s.txState = .pause)
    (hretry : s.cfg.wrTimeoutPolicy = .retryRemainder) : WireInv (txPauseStep s) := by
  unfold txPauseStep
  split
  · exact h
  · split
    · exact wireInv_haltTx h
    · rw [hretry]
      exact wireInv_sameFrame h (.inr hst) (.inl rfl)

theorem wireInv_writerStep (hb : BlockInv s) (h : WireInv s) (hmay : txMayStep s = true)
    (hretry : s.cfg.wrTimeoutPolicy = .retryRemainder) : WireInv (writerStep s) := by
  unfold writerStep
  split
  next hst => exact wireInv_txIdleStep hb h hmay hst
  next hst => exact wireInv_txPauseStep h hst hretry
  · exact h
  · exact h

/-! ### Every step -/

theorem wireInv_of_effect (hb : BlockInv s) (h : WireInv s) (he : Effect s t) : WireInv t := by
  have hforward : Forward s t := forward_of_effect he
  have hkept : txRegs t = txRegs s → WireInv t := wireInv_of_txRegs h hforward
  by_cases hretry : s.cfg.wrTimeoutPolicy = .retryRemainder
  case neg =>
    obtain ⟨hcfg, -⟩ := hforward
    exact fun hr => absurd (hcfg ▸ hr) hretry
  cases he with
  | unknown c p => exact hkept (txRegs_endDispatch _)
  | publish c p => exact hkept ((txRegs_endDispatch _).trans (txRegs_callDelegate _ s))
  | log l p => exact hkept ((txRegs_endDispatch _).trans (txRegs_logActions l p s))
  | param p => exact hkept ((txRegs_endDispatch _).trans (txRegs_paramActions p s))
  | timeSync p => exact hkept ((txRegs_endDispatch _).trans (txRegs_timeSyncActions p s))
  | sysTime a => exact hkept ((txRegs_endDispatch _).trans (txRegs_timeSyncActions _ (offerSysTime a s)))
  | start => exact hkept (txRegs_startActions hb)
  | stop => exact hkept (txRegs_stopBlock s)
  | send c p => exact hkept rfl
  | call => exact hkept (txRegs_stepActions s)
  | status => exact hkept rfl
  | byte b => exact hkept rfl
  | timeout => exact hkept (txRegs_takeRxException _ s)
  | ioErr => exact hkept (txRegs_takeRxException _ s)
  | write a _ hw =>
    obtain ⟨-, hst, -⟩ := (txWriting_iff s).mp hw
    exact wireInv_txAnswered h hst hretry
  | result k values => exact hkept rfl
  | reader => exact hkept (txRegs_readerStep s)
  | rxExit => exact hkept (txRegs_haltRx s)
  | writer _ hmay => exact wireInv_writerStep hb h hmay hretry
  | txExit => exact wireInv_haltTx h

/-- Settles O19: taking a move off the schedule writes no register of either invariant, and every effect keeps the wire's. -/
theorem stepKeepsWireInvariant : Obligations.StepKeepsWireInvariant := by
  intro s t hb h hstep
  have hbtake : BlockInv (takeMove s) := hb
  have htake : WireInv (takeMove s) := h
  obtain rfl | he := step_effect hstep
  · exact htake
  · exact wireInv_of_effect hbtake htake he

end Sys2Proof.Wire
end

section
/-! SUPPORT. From bytes to instructions and back (R81, R90, R142): the decoder reads a whole frame as its command and payload,
the command map reads a frame instruction's command back as that instruction, and every command byte is some frame
instruction's. The obligations DecodeGivesEncodedInstruction, CommandMapIsTotal and WrittenFramesDecode. -/

namespace Sys2Proof.Encoding

open Sys2Proof.Machine Sys2Proof.Laws

/-! ### The decoder on a whole frame -/

/-- Behind the preamble, the command and a length that counts `p`, only the byte after `p` decides the attempt (R133 to R135). -/
theorem decode1_whole (c k : Byte) {lo hi : Byte} {p : List Byte} (rest : List Byte) (hlen : (le16 lo hi).toNat = p.length) :
    decode1 (syncByte :: syncByte :: c :: lo :: hi :: (p ++ k :: rest))
      = if k = checksum p then (.frame c p, rest) else (.drop .checksum, rest) := by
  have hlong : ¬ (p ++ k :: rest).length < p.length + 1 := by simp
  have htake : (p ++ k :: rest).take p.length = p := List.take_left
  have hdrop : (p ++ k :: rest).drop (p.length + 1) = rest := by simp [List.drop_append]
  have hcsum : (p ++ k :: rest).getD p.length 0#8 = k := by simp
  simp only [decode1, ne_eq, not_true_eq_false, if_false, hlen, hlong, htake, hdrop, hcsum]

theorem decode1_rxFrame (c : Byte) {p : List Byte} (rest : List Byte) (h : p.length ≤ maxPayload) :
    decode1 (rxFrame c p ++ rest) = (.frame c p, rest) := by
  have hwhole := decode1_whole c (checksum p) rest (le16_lenLo_lenHi p.length h)
  rw [if_pos rfl] at hwhole
  simpa [rxFrame] using hwhole

theorem decode_rxFrame (c : Byte) {p : List Byte} (rest : List Byte) (h : p.length ≤ maxPayload) :
    decode (rxFrame c p ++ rest) = .ok (instrOf c p, rest) := by
  simp only [decode, decode1_rxFrame c rest h]

/-! ### The encoder and its check -/

theorem encode_eq_some {i : Instr} {bs : List Byte} (h : encode i = some bs) :
    ∃ c p, i.frame = some (c, p) ∧ bs = rxFrame c p := by
  unfold encode at h
  split at h
  next c p hf => exact ⟨c, p, hf, (Option.some.inj h).symm⟩
  next => cases h

theorem wellFormed_frame {i : Instr} {c : Byte} {p : List Byte} (hf : i.frame = some (c, p)) :
    i.wellFormed = true ↔ p.length ≤ maxPayload := by
  simp only [Instr.wellFormed, hf, decide_eq_true_eq]

/-! ### The command map -/

/-- The rows of Laws/PerInstr.lean together. -/
theorem commandMap_statement (i : Instr) : CommandMap.Statement i := by
  cases i with
  | unknown00 p => exact CommandMap.unknown00 p
  | timeSync p => exact CommandMap.timeSync p
  | logDebug p => exact CommandMap.logDebug p
  | logInfo p => exact CommandMap.logInfo p
  | logWarn p => exact CommandMap.logWarn p
  | logError p => exact CommandMap.logError p
  | unknown0607 low p => exact CommandMap.unknown0607 low p
  | paramReq p => exact CommandMap.paramReq p
  | unknown09 p => exact CommandMap.unknown09 p
  | unknown0A0B low p => exact CommandMap.unknown0A0B low p
  | unknown0C0F low p => exact CommandMap.unknown0C0F low p
  | publish101F low p => exact CommandMap.publish101F low p
  | publish203F low p => exact CommandMap.publish203F low p
  | publish407F low p => exact CommandMap.publish407F low p
  | publish80FF low p => exact CommandMap.publish80FF low p
  | start => exact CommandMap.start
  | stop => exact CommandMap.stop
  | sendCommand c p => exact CommandMap.sendCommand c p
  | step => exact CommandMap.step
  | statusRead => exact CommandMap.statusRead
  | xptByte b => exact CommandMap.xptByte b
  | xptTimeout => exact CommandMap.xptTimeout
  | xptIoerr => exact CommandMap.xptIoerr
  | xptWriteAnswer a => exact CommandMap.xptWriteAnswer a
  | delSystimeAnswer a => exact CommandMap.delSystimeAnswer a
  | delParamResult k values => exact CommandMap.delParamResult k values

/-- The command map reads a frame instruction's command back as that instruction, of the command's class (R90, R91). -/
theorem instrOf_frame {i : Instr} {c : Byte} {p : List Byte} (hf : i.frame = some (c, p)) :
    instrOf c p = i ∧ i.commandClass = some (classify c) := by
  have hi := commandMap_statement i
  rw [CommandMap.Statement, hf] at hi
  exact hi.2

/-- A command whose high bits are a row's fixed bits is those bits followed by its own low bits. -/
theorem append_extractLsb'_of_div {m n : Nat} {k : BitVec m} {c : BitVec (m + n)} (h : c.toNat / 2 ^ n = k.toNat) :
    k ++ c.extractLsb' 0 n = c := by
  apply BitVec.eq_of_toNat_eq
  have hlow : c.toNat % 2 ^ n < 2 ^ n := Nat.mod_lt _ (Nat.two_pow_pos n)
  calc (k ++ c.extractLsb' 0 n).toNat
      = k.toNat <<< n ||| c.toNat % 2 ^ n := by simp
    _ = 2 ^ n * (c.toNat / 2 ^ n) + c.toNat % 2 ^ n := by
        rw [← Nat.shiftLeft_add_eq_or_of_lt hlow, Nat.shiftLeft_eq, h, Nat.mul_comm]
    _ = c.toNat := Nat.div_add_mod _ _

/-- The rows of R90's table leave no command byte out, so none is refused. -/
theorem exists_frame (c : Byte) (p : List Byte) : ∃ i : Instr, i.frame = some (c, p) := by
  have hrow : c.toNat = 0x00 ∨ c.toNat = 0x01 ∨ c.toNat = 0x02 ∨ c.toNat = 0x03 ∨ c.toNat = 0x04 ∨ c.toNat = 0x05 ∨
      c.toNat / 2 ^ 1 = 0b0000011 ∨ c.toNat = 0x08 ∨ c.toNat = 0x09 ∨ c.toNat / 2 ^ 1 = 0b0000101 ∨
      c.toNat / 2 ^ 2 = 0b000011 ∨ c.toNat / 2 ^ 4 = 0b0001 ∨ c.toNat / 2 ^ 5 = 0b001 ∨ c.toNat / 2 ^ 6 = 0b01 ∨
      c.toNat / 2 ^ 7 = 0b1 := by
    have := c.isLt
    omega
  have hfixed {k : Byte} (h : c.toNat = k.toNat) : some (k, p) = some (c, p) := by rw [BitVec.eq_of_toNat_eq h]
  have hopen {m n : Nat} {k : BitVec m} {d : BitVec (m + n)} (h : d.toNat / 2 ^ n = k.toNat) :
      some (k ++ d.extractLsb' 0 n, p) = some (d, p) := by rw [append_extractLsb'_of_div h]
  obtain h | h | h | h | h | h | h | h | h | h | h | h | h | h | h := hrow
  · exact ⟨.unknown00 p, hfixed h⟩
  · exact ⟨.timeSync p, hfixed h⟩
  · exact ⟨.logDebug p, hfixed h⟩
  · exact ⟨.logInfo p, hfixed h⟩
  · exact ⟨.logWarn p, hfixed h⟩
  · exact ⟨.logError p, hfixed h⟩
  · exact ⟨.unknown0607 _ p, hopen (n := 1) h⟩
  · exact ⟨.paramReq p, hfixed h⟩
  · exact ⟨.unknown09 p, hfixed h⟩
  · exact ⟨.unknown0A0B _ p, hopen (n := 1) h⟩
  · exact ⟨.unknown0C0F _ p, hopen (n := 2) h⟩
  · exact ⟨.publish101F _ p, hopen (n := 4) h⟩
  · exact ⟨.publish203F _ p, hopen (n := 5) h⟩
  · exact ⟨.publish407F _ p, hopen (n := 6) h⟩
  · exact ⟨.publish80FF _ p, hopen (n := 7) h⟩

/-- The command map's conditions on the command, on its value. -/
theorem classify_eq (c : Byte) : classify c =
    if c.toNat = 1 then .timeSync else if c.toNat = 2 then .logDebug else if c.toNat = 3 then .logInfo
    else if c.toNat = 4 then .logWarn else if c.toNat = 5 then .logError else if c.toNat = 8 then .paramReq
    else if 16 ≤ c.toNat then .publish else .unknown := by
  simp only [classify, BitVec.toNat_eq, BitVec.le_def, BitVec.toNat_ofNat]

/-! ### The obligations -/

/-- Settles O3: a frame instruction's encoding is the frame of its command and payload, which the decoder reads back, and the
command map answers that command with the instruction. -/
theorem decodeGivesEncodedInstruction : Obligations.DecodeGivesEncodedInstruction := by
  intro i hwf bs hbs rest
  obtain ⟨c, p, hf, rfl⟩ := encode_eq_some hbs
  obtain ⟨hinstr, -⟩ := instrOf_frame hf
  rw [decode_rxFrame c rest ((wellFormed_frame hf).mp hwf), hinstr]

/-- Settles O10: every command byte is that of some frame instruction, and the command map answers it with that instruction. -/
theorem commandMapIsTotal : Obligations.CommandMapIsTotal := by
  refine ⟨classify_eq, fun c p => ?_⟩
  obtain ⟨i, hf⟩ := exists_frame c p
  obtain ⟨hinstr, hclass⟩ := instrOf_frame hf
  rw [hinstr]
  exact ⟨hclass, hf⟩

/-- Settles O11: each of the five is the encoding of its instruction, with no bytes behind it. -/
theorem writtenFramesDecode : Obligations.WrittenFramesDecode := by
  have hdecode {i : Instr} {bs : List Byte} (hwf : i.wellFormed = true) (hbs : encode i = some bs) :
      decode bs = .ok (i, []) := by
    simpa using decodeGivesEncodedInstruction i hwf bs hbs []
  exact ⟨hdecode rfl rfl, hdecode rfl rfl, hdecode rfl rfl, hdecode rfl rfl, hdecode rfl rfl⟩

end Sys2Proof.Encoding
end

section
/-! SUPPORT. What the checksum detects (R111, R112), how one decode attempt can end (R142), and what follows for sent,
corrupted and misplaced frames. The obligations ChecksumIdentities, ChecksumDetection, RxFrameRoundTrip,
LoopbackByLengthBytes, CorruptedFrameIsDropped, SpuriousSyncIsSkipped, LoneSyncLosesFrame and EncoderCornerCases. -/

namespace Sys2Proof.Codec

open Sys2Proof.Machine Sys2Proof.Laws Sys2Proof.Encoding

/-! ### The checksum -/

/-- A checksum knows no more of its payload than the sum modulo 256. -/
theorem checksum_eq_iff (p q : List Byte) : checksum p = checksum q ↔ byteSum p % 256 = byteSum q % 256 := by
  rw [BitVec.toNat_eq, checksum_toNat, checksum_toNat]
  omega

theorem sum8_append_singleton_eq_iff (p : List Byte) (k : Byte) : sum8 (p ++ [k]) = 0xFF#8 ↔ k = checksum p := by
  rw [BitVec.toNat_eq, BitVec.toNat_eq, sum8_toNat, checksum_toNat, byteSum_append, byteSum_cons, byteSum_nil]
  have hk : k.toNat < 256 := k.isLt
  have hff : (0xFF#8).toNat = 255 := rfl
  omega

theorem checksum_set_ne {p : List Byte} {i : Nat} (h : i < p.length) {b : Byte} (hb : b ≠ p[i]) :
    checksum (p.set i b) ≠ checksum p := by
  have hsum := byteSum_set p i b h
  have hne : b.toNat ≠ p[i].toNat := fun e => hb (BitVec.eq_of_toNat_eq e)
  have hlt : b.toNat < 256 := b.isLt
  have hlt' : p[i].toNat < 256 := p[i].isLt
  rw [ne_eq, checksum_eq_iff]
  omega

theorem byteSum_perm {p q : List Byte} (h : p.Perm q) : byteSum p = byteSum q := by
  induction h with
  | nil => rfl
  | cons b _ ih => rw [byteSum_cons, byteSum_cons, ih]
  | swap a b p => simp only [byteSum_cons]; omega
  | trans _ _ ih₁ ih₂ => exact ih₁.trans ih₂

/-- Two changes whose sum is what the two bytes summed to (mod 256) cancel (R112). -/
theorem checksum_set_set {p : List Byte} {i j : Nat} (hi : i < p.length) (hj : j < p.length) {b c : Byte} (hij : i ≠ j)
    (hsum : (b.toNat + c.toNat) % 256 = (p[i].toNat + p[j].toNat) % 256) :
    checksum ((p.set i b).set j c) = checksum p := by
  have hset := byteSum_set p i b hi
  have hset' := byteSum_set (p.set i b) j c (by simpa using hj)
  rw [List.getElem_set_ne hij] at hset'
  rw [checksum_eq_iff]
  omega

/-- Settles O1: the checksum's value is 255 less the sum modulo 256, which is the complement of eight bits. -/
theorem checksumIdentities : Obligations.ChecksumIdentities := by
  intro p
  refine ⟨?_, ?_, (sum8_append_singleton_eq_iff p _).mpr rfl⟩
  · rw [checksum_toNat]
    omega
  · have hnot : BitVec.ofNat 8 (byteSum p) ^^^ 0xFF#8 = ~~~ sum8 p := BitVec.xor_allOnes
    rw [hnot, BitVec.toNat_eq, checksum_toNat, BitVec.toNat_not, sum8_toNat]

/-! ### The frames, byte by byte -/

/-- A frame's bytes in front of its payload and checksum. -/
theorem rxFrame_append (c : Byte) (p rest : List Byte) :
    rxFrame c p ++ rest
      = syncByte :: syncByte :: c :: lenLo p.length :: lenHi p.length :: (p ++ checksum p :: rest) := by
  simp [rxFrame]

theorem rxFrame_getLast? (c : Byte) (p : List Byte) : (rxFrame c p).getLast? = some (checksum p) :=
  List.getLast?_concat

theorem encodeTx_getLast? (t : TxLenBytes) (c : Byte) (p : List Byte) :
    (encodeTx t c p).getLast? = some (checksum p) := by
  cases t <;> exact List.getLast?_concat

theorem rxFrame_set_command (c c' : Byte) (p : List Byte) : (rxFrame c p).set 2 c' = rxFrame c' p := rfl

theorem rxFrame_dropLast_append (c k : Byte) (p rest : List Byte) :
    (rxFrame c p).dropLast ++ [k] ++ rest
      = syncByte :: syncByte :: c :: lenLo p.length :: lenHi p.length :: (p ++ k :: rest) := by
  rw [rxFrame, List.dropLast_concat]
  simp

theorem rxFrame_set_payload_append (c b : Byte) {p : List Byte} (rest : List Byte) {i : Nat} (h : i < p.length) :
    (rxFrame c p).set (5 + i) b ++ rest
      = syncByte :: syncByte :: c :: lenLo p.length :: lenHi p.length :: (p.set i b ++ checksum p :: rest) := by
  simp [rxFrame, Nat.add_comm 5 i, List.set_append_left _ _ h]

theorem encodeTx_two_eq_rxFrame (c : Byte) {p : List Byte} (h : p.length ≤ 255) : encodeTx .two c p = rxFrame c p := by
  have hhi : lenHi p.length = 0x00#8 := by
    rw [lenHi, Nat.div_eq_of_lt (by omega)]
  rw [rxFrame, hhi]
  rfl

/-! ### One decode attempt -/

/-- How one decode attempt ends for the bytes pending, a case for each row of R142. -/
inductive Attempt : List Byte → FrameOutcome × List Byte → Prop
  | empty : Attempt [] (.empty, [])
  | dropSync1 {b : Byte} {rest : List Byte} (hb : b ≠ syncByte) : Attempt (b :: rest) (.drop .sync1, rest)
  | dropSync2 {b : Byte} {rest : List Byte} (hb : b ≠ syncByte) : Attempt (syncByte :: b :: rest) (.drop .sync2, rest)
  | shortPreamble : Attempt [syncByte] (.short, [])
  | shortHeader {bs : List Byte} (hbs : bs.length < 3) : Attempt (syncByte :: syncByte :: bs) (.short, [])
  | shortPayload {c lo hi : Byte} {p : List Byte} (hlen : p.length ≤ (le16 lo hi).toNat) :
      Attempt (syncByte :: syncByte :: c :: lo :: hi :: p) (.short, [])
  | frame {c lo hi : Byte} {p rest : List Byte} (hlen : (le16 lo hi).toNat = p.length) :
      Attempt (syncByte :: syncByte :: c :: lo :: hi :: (p ++ checksum p :: rest)) (.frame c p, rest)
  | dropChecksum {c lo hi k : Byte} {p rest : List Byte} (hlen : (le16 lo hi).toNat = p.length) (hk : k ≠ checksum p) :
      Attempt (syncByte :: syncByte :: c :: lo :: hi :: (p ++ k :: rest)) (.drop .checksum, rest)

/-- Behind a whole header, the attempt ends short or at the byte after the payload. -/
theorem decode1_attempt_header (c lo hi : Byte) (bs : List Byte) :
    Attempt (syncByte :: syncByte :: c :: lo :: hi :: bs) (decode1 (syncByte :: syncByte :: c :: lo :: hi :: bs)) := by
  by_cases hshort : bs.length ≤ (le16 lo hi).toNat
  · have hdecode : decode1 (syncByte :: syncByte :: c :: lo :: hi :: bs) = (.short, []) := by
      simp only [decode1, ne_eq, not_true_eq_false, if_false, if_pos (Nat.lt_succ_of_le hshort)]
    rw [hdecode]
    exact .shortPayload hshort
  · rw [not_le] at hshort
    obtain ⟨p, k, rest, rfl, hlen⟩ : ∃ p k rest, bs = p ++ k :: rest ∧ (le16 lo hi).toNat = p.length :=
      ⟨_, _, _, by rw [← List.drop_eq_getElem_cons hshort, List.take_append_drop],
        (List.length_take_of_le hshort.le).symm⟩
    rw [decode1_whole c k rest hlen]
    split
    next hk => subst hk; exact .frame hlen
    next hk => exact .dropChecksum hlen hk

/-- Everything one decode attempt can do. -/
theorem decode1_attempt (bs : List Byte) : Attempt bs (decode1 bs) := by
  match bs with
  | [] => exact .empty
  | b :: s1 =>
    by_cases hb : b = syncByte
    case neg => simpa [decode1, hb] using Attempt.dropSync1 (rest := s1) hb
    subst hb
    match s1 with
    | [] => exact .shortPreamble
    | b :: s2 =>
      by_cases hb : b = syncByte
      case neg => simpa [decode1, hb] using Attempt.dropSync2 (rest := s2) hb
      subst hb
      match s2 with
      | [] => exact .shortHeader (by simp)
      | [_] => exact .shortHeader (by simp)
      | [_, _] => exact .shortHeader (by simp)
      | c :: lo :: hi :: s3 => exact decode1_attempt_header c lo hi s3

/-- Two length bytes are those of the length they stand for. -/
theorem eq_lenLo_lenHi_of_le16 {lo hi : Byte} {n : Nat} (h : (le16 lo hi).toNat = n) : lo = lenLo n ∧ hi = lenHi n := by
  rw [le16_toNat] at h
  have hlo : lo.toNat < 256 := lo.isLt
  have hhi : hi.toNat < 256 := hi.isLt
  rw [BitVec.toNat_eq, BitVec.toNat_eq, lenLo_toNat, lenHi_toNat]
  omega

/-- The decoder gives a frame only for that frame's own bytes: the converse of `decode1_rxFrame`. -/
theorem rxFrame_of_decode1 {bs : List Byte} {c : Byte} {p rest : List Byte} (h : decode1 bs = (.frame c p, rest)) :
    p.length ≤ maxPayload ∧ bs = rxFrame c p ++ rest := by
  have hbs := decode1_attempt bs
  rw [h] at hbs
  cases hbs with
  | @frame _ lo hi _ _ hlen =>
    obtain ⟨rfl, rfl⟩ := eq_lenLo_lenHi_of_le16 hlen
    exact ⟨hlen ▸ Nat.le_of_lt_succ (BitVec.isLt _), (rxFrame_append c p rest).symm⟩

theorem rxFrame_of_decode1_fst {bs : List Byte} {c : Byte} {p : List Byte} (h : (decode1 bs).1 = .frame c p) :
    p.length ≤ maxPayload ∧ bs = rxFrame c p ++ (decode1 bs).2 :=
  rxFrame_of_decode1 (Prod.ext h rfl)

/-- A frame whose payload or checksum byte does not fit the other is dropped whole (R135). -/
theorem decode1_dropChecksum (c : Byte) {k : Byte} {n : Nat} {p : List Byte} (rest : List Byte) (hn : p.length = n)
    (hmax : n ≤ maxPayload) (hk : k ≠ checksum p) :
    decode1 (syncByte :: syncByte :: c :: lenLo n :: lenHi n :: (p ++ k :: rest)) = (.drop .checksum, rest) := by
  subst hn
  rw [decode1_whole c k rest (le16_lenLo_lenHi p.length hmax), if_neg hk]

/-- A sequence that a byte `a` in front of it does not change is all `a`. -/
theorem eq_replicate_of_cons_append_eq {a k : Byte} {p x y : List Byte} (h : a :: (p ++ k :: x) = p ++ k :: y) :
    p = List.replicate p.length a ∧ k = a := by
  induction p generalizing a with
  | nil => exact ⟨rfl, (List.cons.inj h).1.symm⟩
  | cons b p ih =>
    obtain ⟨rfl, htail⟩ := List.cons.inj h
    obtain ⟨hp, hk⟩ := ih htail
    exact ⟨congrArg (a :: ·) hp, hk⟩

theorem byteSum_replicate (n : Nat) (b : Byte) : byteSum (List.replicate n b) = n * b.toNat := by
  induction n with
  | zero => simp
  | succ n ih => rw [List.replicate_succ, byteSum_cons, ih]; ring

/-! ### The obligations -/

/-- Settles O2: all clauses but the frame's go back to the sum modulo 256; a frame's checksum byte leaves the command out. -/
theorem checksumDetection : Obligations.ChecksumDetection := by
  refine ⟨fun p i h b hb => checksum_set_ne h hb, fun p k hk hsum => hk ((sum8_append_singleton_eq_iff p k).mp hsum),
    fun p q h => ?_, fun p q => ?_, fun p i j hi hj b c hij hsum => checksum_set_set hi hj hij hsum,
    fun c c' p rest h => ?_, rxFrame_getLast?⟩
  · rw [checksum_eq_iff, byteSum_perm h]
  · simp [checksum_eq_iff]
  · rw [rxFrame_set_command, decode1_rxFrame c' rest h]

/-- Settles O4: the frame's own length bytes and checksum are the ones the decoder reads. -/
theorem rxFrameRoundTrip : Obligations.RxFrameRoundTrip :=
  fun c _ rest h => decode1_rxFrame c rest h

/-- Settles O5: a frame decodes only from its own bytes, and those have the length's high byte where the encoder sends 0 or
nothing. -/
theorem loopbackByLengthBytes : Obligations.LoopbackByLengthBytes := by
  refine ⟨fun c p rest h => ?_, fun c p rest hlong => ⟨?_, fun hdecode => ?_⟩, fun c p rest hdecode => ?_⟩
  · have hframe := encodeTx_two_eq_rxFrame c h
    exact ⟨hframe, hframe ▸ decode1_rxFrame c rest (h.trans (by norm_num))⟩
  · simp [encodeTx]
  · obtain ⟨hmax, hbytes⟩ := rxFrame_of_decode1_fst hdecode
    have hmax' : p.length ≤ 65535 := hmax
    have hhi : 0x00#8 = lenHi p.length := by
      simpa [rxFrame_append, encodeTx] using congrArg (·.getD 4 0#8) hbytes
    have hhi' := congrArg BitVec.toNat hhi
    rw [lenHi_toNat, BitVec.toNat_ofNat] at hhi'
    omega
  · obtain ⟨-, hbytes⟩ := rxFrame_of_decode1 hdecode
    have hlength := congrArg List.length hbytes
    simp only [List.length_append, encodeTx_one_length, rxFrame_length] at hlength
    omega

/-- Settles O7: either change leaves a checksum byte that is not the payload's; a changed length byte moves the place where
the checksum is read, here past the end. -/
theorem corruptedFrameIsDropped : Obligations.CorruptedFrameIsDropped := by
  have hcsum {c k : Byte} {p : List Byte} (g : List Byte) (h : p.length ≤ maxPayload) (hk : k ≠ checksum p) :
      decode1 ((rxFrame c p).dropLast ++ [k] ++ g) = (.drop .checksum, g) := by
    rw [rxFrame_dropLast_append, decode1_dropChecksum c g rfl h hk]
  refine ⟨fun c k p g h hk => hcsum g h hk, fun c b p g i hi h hb => ?_, fun c k c' p p' g h h' hk => ?_,
    0x00#8, 0x01#8, [], [], by decide, by decide, by decide⟩
  · rw [rxFrame_set_payload_append c b g hi]
    exact decode1_dropChecksum c g List.length_set h (checksum_set_ne hi hb).symm
  · rw [hcsum _ h hk, decode1_rxFrame c' g h']

/-- Settles O8: the bytes left by the drop are the frame of command 0x00 with no payload. -/
theorem spuriousSyncIsSkipped : Obligations.SpuriousSyncIsSkipped :=
  ⟨rfl, decode1_rxFrame 0x00#8 [] (p := []) (by decide), rfl⟩

/-- Settles O9: to decode as itself one byte late, the frame would need command, length bytes, payload and checksum all 0xAA,
but the checksum of 0xAAAA bytes 0xAA is not 0xAA. -/
theorem loneSyncLosesFrame : Obligations.LoneSyncLosesFrame := by
  intro c p g hmax hdecode
  obtain ⟨-, hbytes⟩ := rxFrame_of_decode1_fst hdecode
  rw [List.append_assoc, rxFrame_append, rxFrame_append] at hbytes
  simp only [List.singleton_append, List.cons.injEq, true_and] at hbytes
  obtain ⟨rfl, hlo, hhi, hpayload⟩ := hbytes
  rw [← hhi, ← hlo] at hpayload
  obtain ⟨hp, hk⟩ := eq_replicate_of_cons_append_eq hpayload
  have hlength : p.length = 0xAAAA := by
    have hlo' := congrArg BitVec.toNat hlo
    have hhi' := congrArg BitVec.toNat (hlo.trans hhi)
    simp only [lenLo_toNat, lenHi_toNat, BitVec.toNat_ofNat] at hlo' hhi'
    have : p.length ≤ 65535 := hmax
    omega
  have hsum := congrArg BitVec.toNat hk
  rw [checksum_toNat, hp, byteSum_replicate, hlength] at hsum
  revert hsum
  decide

/-- Settles O12: each case reads the frame where the encoder writes it. -/
theorem encoderCornerCases : Obligations.EncoderCornerCases := by
  intro c p
  have hpayload : ((encodeTx .one c p).drop 4).take p.length = p ∧ ((encodeTx .two c p).drop 5).take p.length = p := by
    simp [encodeTx]
  refine ⟨⟨rfl, rfl⟩, fun h => ⟨?_, h ▸ hpayload.1⟩, fun t => ?_, hpayload, fun t => encodeTx_getLast? t c p⟩
  · simp [encodeTx, h, lenLo]
  · cases t <;> rfl

end Sys2Proof.Codec
end

section
/-! SUPPORT. RX's own steps, one update for each read state (R120 to R136), and how a read ends without a byte (R138, R139). The
obligations PreambleSteps, HeaderSteps, PayloadStep, ChecksumStep, ReadTimeoutResult and IoErrorResult. -/

namespace Sys2Proof.Reader

open Sys2Proof.Machine Sys2Proof.Laws

variable {s : State}

/-! ### RX's step in a read state -/

/-- RX leaves its loop only at the iteration boundary of a stopped THREADED block (R161). -/
theorem rxExitsAtBoundary_eq_false (h : s.cfg.mode = .threaded → s.rxState = .sync1 → s.alive = true) :
    rxExitsAtBoundary s = false := by
  rw [← Bool.not_eq_true]
  intro hx
  simp only [rxExitsAtBoundary, Bool.and_eq_true, beq_iff_eq, Bool.not_eq_true'] at hx
  obtain ⟨⟨hmode, hdead⟩, hstate⟩ := hx
  rw [h hmode hstate] at hdead
  cases hdead

theorem runMove_rx_of_ne_dispatch (hmay : rxMayStep s = true) (hd : s.rxState ≠ .dispatch) :
    runMove .rx s = .next (readerStep s) := by
  obtain ⟨hu, -⟩ := (rxMayStep_iff s).mp hmay
  rw [runMove, rxMove, if_neg hd, whenEnabled_taken hu hmay]

/-- With a byte pending RX takes it. -/
theorem runMove_rx_takes {b : Byte} {rest : List Byte} (hmay : rxMayStep s = true) (hd : s.rxState ≠ .dispatch)
    (hlive : s.cfg.mode = .threaded → s.rxState = .sync1 → s.alive = true) (hf : s.rxFifo = b :: rest) :
    runMove .rx s = .next (readByte b rest s) := by
  rw [runMove_rx_of_ne_dispatch hmay hd, readerStep, rxExitsAtBoundary_eq_false hlive, hf]
  rfl

/-- Inside an attempt a stop does not keep RX from taking a pending byte. -/
theorem runMove_rx_takes_inside {b : Byte} {rest : List Byte} (hmay : rxMayStep s = true) (hd : s.rxState ≠ .dispatch)
    (hst : s.rxState ≠ .sync1) (hf : s.rxFifo = b :: rest) : runMove .rx s = .next (readByte b rest s) :=
  runMove_rx_takes hmay hd (fun _ h => absurd h hst) hf

theorem runMove_rx_polls (hmay : rxMayStep s = true) (hst : s.rxState = .sync1)
    (hlive : s.cfg.mode = .threaded → s.rxState = .sync1 → s.alive = true) (hf : s.rxFifo = []) :
    runMove .rx s = .next { s with ssPhase := phaseAfterAttempt s } := by
  have hpoll : readerStep s = endAttempt s := by simp [readerStep, rxExitsAtBoundary_eq_false hlive, hf, readNothing, hst]
  rw [runMove_rx_of_ne_dispatch hmay (by simp [hst]), hpoll, endAttempt_eq, ← hst]

/-! ### What a byte does in each read state -/

variable (b : Byte) (rest : List Byte)

/-- A drop is one diagnostic and the end of the attempt (R122, R124, R135). -/
theorem endAttempt_diag_rxTake (d : Diag) : endAttempt (diag d (rxTake rest s)) =
    { s with
      rxFifo := rest, rxState := .sync1, ssPhase := phaseAfterAttempt s, events := s.events ++ [.diag d] } :=
  endAttempt_eq _

theorem readByte_sync1 (hst : s.rxState = .sync1) : readByte b rest s =
    if b = syncByte then { s with rxFifo := rest, rxState := .sync2 }
    else { s with
      rxFifo := rest, rxState := .sync1, ssPhase := phaseAfterAttempt s,
      events := s.events ++ [.diag (.dropSync1 b)] } := by
  rw [readByte, hst, ← endAttempt_diag_rxTake]
  rfl

theorem readByte_sync2 (hst : s.rxState = .sync2) : readByte b rest s =
    if b = syncByte then { s with rxFifo := rest, rxState := .cmd }
    else { s with
      rxFifo := rest, rxState := .sync1, ssPhase := phaseAfterAttempt s,
      events := s.events ++ [.diag (.dropSync2 b)] } := by
  rw [readByte, hst, ← endAttempt_diag_rxTake]
  rfl

theorem readByte_cmd (hst : s.rxState = .cmd) : readByte b rest s =
    { s with rxFifo := rest, rxCmd := b, rxIdx := 0#16, rxState := .len } := by
  rw [readByte, hst]
  rfl

theorem readByte_lenLo (hst : s.rxState = .len) (hidx : s.rxIdx = 0#16) : readByte b rest s =
    { s with rxFifo := rest, rxLen := setLenLo s.rxLen b, rxIdx := 1#16 } := by
  have hread : readByte b rest s = readLenLo b (rxTake rest s) := by simp only [readByte, hst, hidx, if_true]
  rw [hread]
  rfl

/-- Counting no payload at a zero length is no count (R131). -/
theorem afterLen_eq (t : State) :
    afterLen t = { t with rxState := if t.rxLen = 0#16 then .csum else .payload } := by
  unfold afterLen
  split
  next h => ext1 <;> simp [h]
  next => rfl

theorem readByte_lenHi (hst : s.rxState = .len) (hidx : s.rxIdx = 1#16) : readByte b rest s =
    { s with
      rxFifo := rest, rxLen := setLenHi s.rxLen b, rxIdx := 0#16,
      rxState := if setLenHi s.rxLen b = 0#16 then .csum else .payload } := by
  have hne : 1#16 ≠ 0#16 := by decide
  simp only [readByte, hst, hidx, if_neg hne, if_true, readLenHi, afterLen_eq]
  rfl

theorem readByte_payload (hst : s.rxState = .payload) (hlt : s.rxIdx < s.rxLen) : readByte b rest s =
    { s with
      rxFifo := rest, rxBuf := memWrite s.rxBuf s.rxIdx.toNat b, rxIdx := s.rxIdx + 1#16,
      rxState := if s.rxIdx + 1#16 = s.rxLen then .csum else .payload,
      readCount := if s.rxIdx + 1#16 = s.rxLen ∧ s.cfg.readCountPoint = .onPayload
        then s.readCount + s.rxLen.toNat else s.readCount } := by
  have hread : readByte b rest s = afterPayload (storePayload b (rxTake rest s)) := by
    simp only [readByte, hst, if_pos hlt, readPayload]
  rw [hread, afterPayload]
  by_cases hlast : s.rxIdx + 1#16 = s.rxLen
  · have hcond : (storePayload b (rxTake rest s)).rxIdx = (storePayload b (rxTake rest s)).rxLen := hlast
    rw [if_pos hcond, countRead_eq]
    simp only [if_pos hlast, and_iff_right hlast]
    rfl
  · have hcond : (storePayload b (rxTake rest s)).rxIdx ≠ (storePayload b (rxTake rest s)).rxLen := hlast
    rw [if_neg hcond, if_neg hlast, if_neg fun h => hlast h.1, ← hst]
    rfl

theorem readByte_csum (hst : s.rxState = .csum) : readByte b rest s =
    if b = checksum (rxPayload s) then { s with
      rxFifo := rest, rxState := .dispatch,
      readCount := if s.cfg.readCountPoint = .onAccept then s.readCount + s.rxLen.toNat else s.readCount }
    else { s with
      rxFifo := rest, rxState := .sync1, ssPhase := phaseAfterAttempt s,
      events := s.events ++ [.diag (.dropChecksum s.rxCmd s.rxLen.toNat b (checksum (rxPayload s)))] } := by
  simp only [readByte, hst, readCsum, countRead_eq, ← endAttempt_diag_rxTake]
  rfl

/-! ### The obligations -/

/-- Settles O49: the poll and the two preamble states, by whether the byte is the marker. -/
theorem preambleSteps : Obligations.PreambleSteps := by
  intro s hmay hlive
  refine ⟨fun hst hf => runMove_rx_polls hmay hst hlive hf, fun b rest hf => ?_⟩
  have htake (hd : s.rxState ≠ .dispatch) := runMove_rx_takes hmay hd hlive hf
  refine ⟨fun hst hb => ?_, fun hst hb => ?_, fun hst hb => ?_, fun hst hb => ?_⟩
  · rw [htake (by simp [hst]), readByte_sync1 b rest hst, if_pos hb]
  · rw [htake (by simp [hst]), readByte_sync1 b rest hst, if_neg hb]
  · rw [htake (by simp [hst]), readByte_sync2 b rest hst, if_pos hb]
  · rw [htake (by simp [hst]), readByte_sync2 b rest hst, if_neg hb]

/-- Settles O50: the two halves of `rx_len` have the values that `setLenLo_toNat` and `setLenHi_toNat` give. -/
theorem headerSteps : Obligations.HeaderSteps := by
  intro s b rest hmay hf
  have htake (hd : s.rxState ≠ .dispatch) (hst : s.rxState ≠ .sync1) := runMove_rx_takes_inside hmay hd hst hf
  refine ⟨fun hst => ?_, fun hst hidx => ⟨_, setLenLo_toNat s.rxLen b, ?_⟩,
    fun hst hidx => ⟨_, setLenHi_toNat s.rxLen b, ?_⟩⟩
  · rw [htake (by simp [hst]) (by simp [hst]), readByte_cmd b rest hst]
  · rw [htake (by simp [hst]) (by simp [hst]), readByte_lenLo b rest hst hidx]
  · rw [htake (by simp [hst]) (by simp [hst]), readByte_lenHi b rest hst hidx]

/-- Settles O51: the buffer is the one with the byte written at `rx_idx`, which lies below a 16-bit length. -/
theorem payloadStep : Obligations.PayloadStep := by
  intro s b rest hmay hst hlt hf hwf
  have htake := runMove_rx_takes_inside hmay (by simp [hst]) (by simp [hst]) hf
  rw [readByte_payload b rest hst hlt] at htake
  refine ⟨memWrite s.rxBuf s.rxIdx.toNat b, memRead_memWrite_same _ _ _ hwf,
    fun a ha => memRead_memWrite_other _ b ha, wf_storePayload b s hwf hlt, fun hmore => ?_, fun hlast => ?_⟩
  · simpa [hmore, ← hst] using htake
  · simpa [hlast] using htake

/-- Settles O52: the byte is compared with the checksum of the stored payload. -/
theorem checksumStep : Obligations.ChecksumStep := by
  intro s k rest hmay hst hf
  have htake := runMove_rx_takes_inside hmay (by simp [hst]) (by simp [hst]) hf
  rw [readByte_csum k rest hst] at htake
  exact ⟨fun hk => by rw [htake, if_pos hk], fun hk => by rw [htake, if_neg hk]⟩

/-- Settles O43: each state of the list waits at the position listed with it, and the wait ends with the exception. -/
theorem readTimeoutResult : Obligations.ReadTimeoutResult := by
  intro s i hmay hf hwait
  have hposition : rxWaiting s = true ∧ waitPosition s = i := by
    simp only [List.mem_cons, Prod.mk.injEq, List.not_mem_nil, or_false] at hwait
    obtain ⟨hst, hi⟩ | ⟨hst, hi⟩ | ⟨hst, hi⟩ | ⟨hst, hi⟩ | ⟨hst, hi⟩ := hwait <;>
      simp [rxWaiting_iff, waitPosition, hf, hst, hi]
  obtain ⟨hu, -⟩ := (rxMayStep_iff s).mp hmay
  obtain ⟨hw, rfl⟩ := hposition
  have hexec : exec .xptTimeout s = .next (takeRxException (.timeout s.rxState (waitPosition s)) s) :=
    whenEnabled_taken hu (by rw [hmay, hw]; rfl)
  refine ⟨fun hm => ?_, fun hm => ?_⟩
  · rw [hexec, takeRxException_threaded _ hm, haltRx_eq]
    rfl
  · rw [hexec, takeRxException_singleStep _ hm]

/-- Settles O44: every state but `R_DISPATCH` and `R_HALT` calls the transport, and the call ends with the exception. -/
theorem ioErrorResult : Obligations.IoErrorResult := by
  intro s hmay hd
  obtain ⟨hu, hhalt, -⟩ := (rxMayStep_iff s).mp hmay
  have hcalls : rxCallsTransport s = true := by
    unfold rxCallsTransport
    split
    next h => exact absurd h hd
    next h => exact absurd h hhalt
    all_goals rfl
  have hexec : exec .xptIoerr s = .next (takeRxException .ioErr s) :=
    whenEnabled_taken hu (by rw [hmay, hcalls]; rfl)
  refine ⟨fun hm => ?_, fun hm => ?_⟩
  · rw [hexec, takeRxException_threaded _ hm, haltRx_eq]
    rfl
  · rw [hexec, takeRxException_singleStep _ hm]

end Sys2Proof.Reader
end

section
/-! SUPPORT. The state machine of the decoder against `decode1` (R142): what an attempt has collected of a frame, and how RX's
steps reach the end that `decode1` gives. The obligation ReaderRefinesDecodeOne. -/

namespace Sys2Proof.Refinement

open Sys2Proof.Machine Sys2Proof.Laws Sys2Proof.Codec Sys2Proof.Reader

variable {s t r : State}

/-! ### RX's steps within an attempt -/

/-- Registers that no step inside a decode attempt writes. -/
def outsideAttempt (s : State) : Params × Bool × Bool × Option UCode × SsPhase × List (List Byte) × List Event :=
  (s.cfg, s.started, s.alive, s.ufault, s.ssPhase, s.queue, s.events)

theorem outsideAttempt_eq (h : outsideAttempt t = outsideAttempt s) :
    t.cfg = s.cfg ∧ t.started = s.started ∧ t.alive = s.alive ∧ t.ufault = s.ufault ∧ t.ssPhase = s.ssPhase ∧
      t.queue = s.queue ∧ t.events = s.events := by
  simpa only [outsideAttempt, Prod.mk.injEq] using h

theorem rxRun_snoc {n : Nat} (h : rxRun n s = .next t) (hstep : runMove .rx t = .next r) : rxRun (n + 1) s = .next r := by
  induction n generalizing s with
  | zero =>
    cases h
    rw [rxRun, hstep]
    rfl
  | succ n ih =>
    rw [rxRun] at h ⊢
    cases hfirst : runMove .rx s with
    | next s' =>
      rw [hfirst] at h
      exact ih h
    | fault f => rw [hfirst] at h; cases h
    | refused f => rw [hfirst] at h; cases h

/-- RX's own steps lead from `s` to `t` and have only read: nothing outside the attempt was written. -/
def ReadsTo (s t : State) : Prop := (∃ n, rxRun n s = .next t) ∧ outsideAttempt t = outsideAttempt s

theorem ReadsTo.refl (s : State) : ReadsTo s s := ⟨⟨0, rfl⟩, rfl⟩

theorem ReadsTo.step (h : ReadsTo s t) (hstep : runMove .rx t = .next r) (hsame : outsideAttempt r = outsideAttempt t) :
    ReadsTo s r := by
  obtain ⟨⟨n, hrun⟩, hout⟩ := h
  exact ⟨⟨n + 1, rxRun_snoc hrun hstep⟩, hsame.trans hout⟩

theorem ReadsTo.mayStep (h : ReadsTo s t) (hmay : rxMayStep s = true) (hst : t.rxState ≠ .halt) :
    rxMayStep t = true := by
  obtain ⟨hcfg, hstarted, -, hufault, hphase, -, -⟩ := outsideAttempt_eq h.2
  rw [rxMayStep_iff] at hmay ⊢
  rw [hcfg, hstarted, hufault, hphase]
  obtain ⟨hu, -, hmode⟩ := hmay
  exact ⟨hu, hst, hmode⟩

theorem ReadsTo.phaseAfterAttempt_eq (h : ReadsTo s t) : phaseAfterAttempt t = phaseAfterAttempt s := by
  obtain ⟨hcfg, -, -, -, hphase, -, -⟩ := outsideAttempt_eq h.2
  rw [phaseAfterAttempt, hcfg, hphase]
  rfl

/-- Past the preamble's first byte, RX takes a pending byte in any state it has read to. -/
theorem ReadsTo.takes {b : Byte} {rest : List Byte} (h : ReadsTo s t) (hmay : rxMayStep s = true)
    (hf : t.rxFifo = b :: rest) (hst : t.rxState ≠ .sync1 ∧ t.rxState ≠ .dispatch ∧ t.rxState ≠ .halt) :
    runMove .rx t = .next (readByte b rest t) := by
  obtain ⟨hsync, hdispatch, hhalt⟩ := hst
  exact runMove_rx_takes_inside (h.mayStep hmay hhalt) hdispatch hsync hf

/-! ### The preamble and the header -/

/-- The state with bytes left and RX in a read state, as the preamble leaves it. -/
def inPreamble (x : RxState) (bs : List Byte) (s : State) : State := { s with rxFifo := bs, rxState := x }

/-- Where a decode attempt starts (R120): RX polls, and the loop is not about to exit. -/
structure AttemptStart (s : State) : Prop where
  mayStep : rxMayStep s = true
  atSync1 : s.rxState = .sync1
  live : s.cfg.mode = .threaded → s.alive = true

theorem AttemptStart.takes {b : Byte} {bs : List Byte} (h : AttemptStart s) (hf : s.rxFifo = b :: bs) :
    runMove .rx s = .next (readByte b bs s) :=
  runMove_rx_takes h.mayStep (by simp [h.atSync1]) (fun hm _ => h.live hm) hf

theorem readsTo_sync2 {bs : List Byte} (h : AttemptStart s) (hf : s.rxFifo = syncByte :: bs) :
    ReadsTo s (inPreamble .sync2 bs s) := by
  have hstep := h.takes hf
  rw [readByte_sync1 _ _ h.atSync1, if_pos rfl] at hstep
  exact (ReadsTo.refl s).step hstep rfl

theorem readsTo_cmd {bs : List Byte} (h : AttemptStart s) (hf : s.rxFifo = syncByte :: syncByte :: bs) :
    ReadsTo s (inPreamble .cmd bs s) := by
  have hreads := readsTo_sync2 h hf
  have hstep := hreads.takes h.mayStep rfl (by simp [inPreamble])
  rw [readByte_sync2 _ _ rfl, if_pos rfl] at hstep
  exact hreads.step hstep rfl

/-- The command is read, and the low length byte is next. -/
theorem readsTo_len {c : Byte} {bs : List Byte} (h : AttemptStart s) (hf : s.rxFifo = syncByte :: syncByte :: c :: bs) :
    ReadsTo s { s with rxFifo := bs, rxCmd := c, rxIdx := 0#16, rxState := .len } := by
  have hreads := readsTo_cmd h hf
  have hstep := hreads.takes h.mayStep rfl (by simp [inPreamble])
  rw [readByte_cmd _ _ rfl] at hstep
  exact hreads.step hstep rfl

/-- The low length byte is read, and the high one is next. -/
theorem readsTo_lenHi {c lo : Byte} {bs : List Byte} (h : AttemptStart s)
    (hf : s.rxFifo = syncByte :: syncByte :: c :: lo :: bs) :
    ReadsTo s { s with rxFifo := bs, rxCmd := c, rxLen := setLenLo s.rxLen lo, rxIdx := 1#16, rxState := .len } := by
  have hreads := readsTo_len h hf
  have hstep := hreads.takes h.mayStep rfl (by simp)
  rw [readByte_lenLo _ _ rfl rfl] at hstep
  exact hreads.step hstep rfl

/-! ### The payload -/

/-- The attempt has collected the header and the payload bytes `p`, and `rest` is pending; RX is at the checksum once the
payload is whole (R131, R133). -/
structure Collected (c : Byte) (len : BitVec 16) (p rest : List Byte) (t : State) : Prop where
  cmd : t.rxCmd = c
  length : t.rxLen = len
  idx : t.rxIdx = BitVec.ofNat 16 p.length
  payload : memPrefix t.rxBuf p.length = p
  wf : t.rxBuf.wf = true
  fifo : t.rxFifo = rest
  state : t.rxState = if p.length = len.toNat then .csum else .payload

variable {c lo hi : Byte} {len : BitVec 16} {p rest : List Byte}

theorem Collected.state_cases (h : Collected c len p rest t) : t.rxState = .csum ∨ t.rxState = .payload := by
  rw [h.state]
  exact ite_eq_or_eq _ _ _

theorem Collected.reading (h : Collected c len p rest t) :
    t.rxState ≠ .sync1 ∧ t.rxState ≠ .dispatch ∧ t.rxState ≠ .halt := by
  obtain hst | hst := h.state_cases <;> simp [hst]

/-- The header is read: nothing is collected yet, and an empty payload is complete at once (R130, R131). -/
theorem readsTo_collected_nil (h : AttemptStart s) (hwf : s.rxBuf.wf = true)
    (hf : s.rxFifo = syncByte :: syncByte :: c :: lo :: hi :: rest) :
    ∃ t, ReadsTo s t ∧ Collected c (le16 lo hi) [] rest t := by
  have hreads := readsTo_lenHi h hf
  have hstep := hreads.takes h.mayStep rfl (by simp)
  rw [readByte_lenHi _ _ rfl rfl] at hstep
  simp only [setLenHi_setLenLo] at hstep
  refine ⟨_, hreads.step hstep rfl, rfl, rfl, rfl, rfl, hwf, rfl, ?_⟩
  simp only [List.length_nil, BitVec.toNat_eq, BitVec.toNat_ofNat, eq_comm, Nat.zero_mod]

/-- One payload byte more (R132): what the buffer holds grows by it, and the last one leads to the checksum. -/
theorem Collected.takes {b : Byte} (hreads : ReadsTo s t) (hmay : rxMayStep s = true)
    (h : Collected c len p (b :: rest) t) (hlt : p.length < len.toNat) :
    ∃ r, ReadsTo s r ∧ Collected c len (p ++ [b]) rest r := by
  have hidx : t.rxIdx.toNat = p.length := by
    rw [h.idx, BitVec.toNat_ofNat, Nat.mod_eq_of_lt (hlt.trans len.isLt)]
  have hst : t.rxState = .payload := by rw [h.state, if_neg hlt.ne]
  have hbelow : t.rxIdx < t.rxLen := by rwa [BitVec.lt_def, hidx, h.length]
  have hnext : t.rxIdx + 1#16 = BitVec.ofNat 16 (p ++ [b]).length := by
    rw [h.idx, List.length_append, List.length_singleton, BitVec.ofNat_add]
  have hlast : t.rxIdx + 1#16 = t.rxLen ↔ (p ++ [b]).length = len.toNat := by
    have hmod : (p.length + 1) % 2 ^ 16 = p.length + 1 := Nat.mod_eq_of_lt (lt_of_le_of_lt hlt len.isLt)
    rw [hnext, h.length, BitVec.toNat_eq, BitVec.toNat_ofNat, List.length_append, List.length_singleton, hmod]
  have hprefix := memPrefix_storePayload b t h.wf
  rw [hidx, h.payload] at hprefix
  have hstep := hreads.takes hmay h.fifo h.reading
  rw [readByte_payload _ _ hst hbelow] at hstep
  refine ⟨_, hreads.step hstep rfl, h.cmd, h.length, hnext, ?_, wf_storePayload b t h.wf hbelow, rfl, ?_⟩
  · rw [List.length_append]
    exact hprefix
  · simp only [hlast]

/-- RX collects the pending bytes one after another up to the length. -/
theorem exists_collected (h : AttemptStart s) (hwf : s.rxBuf.wf = true)
    (hf : s.rxFifo = syncByte :: syncByte :: c :: lo :: hi :: (p ++ rest)) (hlen : p.length ≤ (le16 lo hi).toNat) :
    ∃ t, ReadsTo s t ∧ Collected c (le16 lo hi) p rest t := by
  induction p using List.reverseRecOn generalizing rest with
  | nil => exact readsTo_collected_nil h hwf hf
  | append_singleton p b ih =>
    rw [List.length_append, List.length_singleton] at hlen
    rw [List.append_assoc] at hf
    obtain ⟨t, hreads, hcollected⟩ := ih hf (Nat.le_of_succ_le hlen)
    exact hcollected.takes hreads h.mayStep hlen

theorem Collected.rxPayload_eq (h : Collected c len p rest t) (hlen : len.toNat = p.length) : rxPayload t = p := by
  rw [rxPayload, h.length, hlen, h.payload]

/-- A whole payload and one byte more: the byte is compared (R134). -/
theorem exists_readCsum {k : Byte} (h : AttemptStart s) (hwf : s.rxBuf.wf = true)
    (hf : s.rxFifo = syncByte :: syncByte :: c :: lo :: hi :: (p ++ k :: rest)) (hlen : (le16 lo hi).toNat = p.length) :
    ∃ t, ReadsTo s t ∧ Collected c (le16 lo hi) p (k :: rest) t ∧ t.rxState = .csum ∧
      runMove .rx t = .next (readByte k rest t) := by
  obtain ⟨t, hreads, hcollected⟩ := exists_collected h hwf hf hlen.ge
  refine ⟨t, hreads, hcollected, ?_, hreads.takes h.mayStep hcollected.fifo hcollected.reading⟩
  rw [hcollected.state, if_pos hlen.symm]

/-! ### The ends of an attempt -/

/-- A wait after any reading: the trace, the queue and `alive` are as they were (R142). -/
theorem exists_wait (hreads : ReadsTo s t) (hwait : rxWaiting t = true) :
    ∃ (n : Nat) (t : State), rxRun n s = .next t ∧ rxWaiting t = true ∧ t.events = s.events ∧ t.queue = s.queue ∧
      t.alive = s.alive := by
  obtain ⟨⟨n, hrun⟩, hout⟩ := hreads
  obtain ⟨-, -, halive, -, -, hqueue, hevents⟩ := outsideAttempt_eq hout
  exact ⟨n, t, hrun, hwait, hevents, hqueue, halive⟩

/-- A drop after any reading (R122, R124, R135). -/
theorem exists_drop {d : Diag} {code : DropCode} (hreads : ReadsTo s t) (hcode : d.code = dropNumber code)
    (hstep : runMove .rx t = .next { t with
      rxFifo := rest, rxState := .sync1, ssPhase := phaseAfterAttempt t, events := t.events ++ [.diag d] }) :
    ∃ (n : Nat) (t : State) (d : Diag),
      rxRun n s = .next t ∧ t.rxState = .sync1 ∧ t.rxFifo = rest ∧ t.ssPhase = phaseAfterAttempt s ∧
      t.events = s.events ++ [.diag d] ∧ d.code = dropNumber code ∧ t.queue = s.queue ∧ t.alive = s.alive := by
  have hphase := hreads.phaseAfterAttempt_eq
  obtain ⟨⟨n, hrun⟩, hout⟩ := hreads
  obtain ⟨-, -, halive, -, -, hqueue, hevents⟩ := outsideAttempt_eq hout
  exact ⟨n + 1, _, d, rxRun_snoc hrun hstep, rfl, rfl, hphase, congrArg (· ++ [.diag d]) hevents, hcode, hqueue, halive⟩

theorem runMove_rx_dispatch (hst : t.rxState = .dispatch) : runMove .rx t = exec (instrOf t.rxCmd (rxPayload t)) t := by
  rw [runMove, rxMove, if_pos hst, fetched]

/-- A frame accepted (R134, R136): RX is at its dispatch. -/
theorem exists_dispatch (h : AttemptStart s) (hwf : s.rxBuf.wf = true)
    (hf : s.rxFifo = syncByte :: syncByte :: c :: lo :: hi :: (p ++ checksum p :: rest))
    (hlen : (le16 lo hi).toNat = p.length) :
    ∃ t, ReadsTo s t ∧ t.rxState = .dispatch ∧ t.rxCmd = c ∧ rxPayload t = p ∧ t.rxFifo = rest := by
  obtain ⟨t, hreads, hcollected, hst, hstep⟩ := exists_readCsum h hwf hf hlen
  have hpayload := hcollected.rxPayload_eq hlen
  rw [readByte_csum _ _ hst, hpayload, if_pos rfl] at hstep
  exact ⟨_, hreads.step hstep rfl, rfl, hcollected.cmd, hpayload, rfl⟩

/-- A header cut short leaves RX waiting for its next byte (R138, R142). -/
theorem exists_readsTo_waiting_header {bs : List Byte} (h : AttemptStart s) (hf : s.rxFifo = syncByte :: syncByte :: bs)
    (hbs : bs.length < 3) : ∃ t, ReadsTo s t ∧ rxWaiting t = true := by
  match bs with
  | [] => exact ⟨_, readsTo_cmd h hf, rfl⟩
  | [_] => exact ⟨_, readsTo_len h hf, rfl⟩
  | [_, _] => exact ⟨_, readsTo_lenHi h hf, rfl⟩
  | _ :: _ :: _ :: _ => simp at hbs; omega

/-- Settles O58: for each end of a decode attempt, RX's steps over the bytes that lead to it. -/
theorem readerRefinesDecodeOne : Obligations.ReaderRefinesDecodeOne := by
  intro s hmay hst hwf hlive
  have h : AttemptStart s := ⟨hmay, hst, hlive⟩
  have hattempt := decode1_attempt s.rxFifo
  generalize decode1 s.rxFifo = o at hattempt ⊢
  obtain ⟨bs, hf⟩ : ∃ bs, s.rxFifo = bs := ⟨_, rfl⟩
  rw [hf] at hattempt
  cases hattempt with
  | empty => exact runMove_rx_polls hmay hst (fun hm _ => hlive hm) hf
  | dropSync1 hb =>
    have hstep := h.takes hf
    rw [readByte_sync1 _ _ hst, if_neg hb] at hstep
    exact exists_drop (.refl s) rfl hstep
  | dropSync2 hb =>
    have hreads := readsTo_sync2 h hf
    have hstep := hreads.takes hmay rfl (by simp [inPreamble])
    rw [readByte_sync2 _ _ rfl, if_neg hb] at hstep
    exact exists_drop hreads rfl hstep
  | shortPreamble => exact exists_wait (readsTo_sync2 h hf) rfl
  | shortHeader hbs =>
    obtain ⟨t, hreads, hwait⟩ := exists_readsTo_waiting_header h hf hbs
    exact exists_wait hreads hwait
  | @shortPayload c lo hi p hlen =>
    rw [← List.append_nil p] at hf
    obtain ⟨t, hreads, hcollected⟩ := exists_collected h hwf hf hlen
    exact exists_wait hreads ((rxWaiting_iff t).mpr ⟨hcollected.fifo, hcollected.reading⟩)
  | frame hlen =>
    obtain ⟨t, hreads, htst, hcmd, hpayload, hrest⟩ := exists_dispatch h hwf hf hlen
    have htmay := hreads.mayStep hmay (by simp [htst])
    have hexec := runMove_rx_dispatch htst
    rw [hcmd, hpayload] at hexec
    obtain ⟨⟨n, hrun⟩, hout⟩ := hreads
    obtain ⟨-, -, halive, -, -, hqueue, hevents⟩ := outsideAttempt_eq hout
    exact ⟨n, t, hrun, htst, hcmd, hpayload, hrest, hevents, hqueue, halive, (rxAtDispatch_iff t).mpr ⟨htmay, htst⟩, hexec⟩
  | dropChecksum hlen hk =>
    obtain ⟨t, hreads, hcollected, htst, hstep⟩ := exists_readCsum h hwf hf hlen
    rw [readByte_csum _ _ htst, hcollected.rxPayload_eq hlen, if_neg hk] at hstep
    exact exists_drop hreads rfl hstep

end Sys2Proof.Refinement
end

section
/-! SUPPORT. What RX fetches (R137) and how a table word is placed for the next step (log 14). The obligations
StepRunsDecodedInstruction and PlacedWordRunsNext. -/

namespace Sys2Proof.Fetch

open Sys2Proof.Machine Sys2Proof.Laws Sys2Proof.Encoding Sys2Proof.Codec Sys2Proof.Refinement

/-- The payload of the RX registers fits a frame: `rx_len` has 16 bits (R61). -/
theorem rxPayload_length_le (s : State) : (rxPayload s).length ≤ maxPayload := by
  rw [rxPayload, memPrefix_length]
  exact Nat.le_of_lt_succ s.rxLen.isLt

/-- A step with RX to move at `R_DISPATCH` runs the fetched instruction. -/
theorem step_of_dispatch {s : State} (hmove : nextMove s = .rx) (hst : s.rxState = .dispatch) :
    step s = exec (instrOf s.rxCmd (rxPayload s)) (takeMove s) := by
  rw [step, hmove]
  exact runMove_rx_dispatch (t := takeMove s) hst

theorem step_of_input {s : State} {i : Instr} (hmove : nextMove s = .input i) (hport : i.isPort = true) :
    step s = exec i (takeMove s) := by
  rw [step, hmove, runMove, inputMove, if_pos hport]

/-- Settles O14: the frame of the RX registers decodes to their own command's instruction. -/
theorem stepRunsDecodedInstruction : Obligations.StepRunsDecodedInstruction := by
  refine ⟨fun s i hmove hst hdecode => ?_, fun s i hmove hport => step_of_input hmove hport, fun s => rfl⟩
  have hregs := decode_rxFrame s.rxCmd [] (rxPayload_length_le s)
  rw [List.append_nil, hdecode] at hregs
  cases hregs
  exact step_of_dispatch hmove hst

/-! ### A placed frame -/

theorem exists_frame_of_decodeTableWord {nbits w : Nat} {i : Instr} (h : decodeTableWord nbits w = some i) :
    ∃ c p, p.length ≤ maxPayload ∧ i = instrOf c p ∧ ∀ s : State, s.withFetchWord nbits w = placeFrame c p s := by
  unfold decodeTableWord decode at h
  cases hdecode : decode1 (tableFrame nbits w) with
  | mk o rest =>
    rw [hdecode] at h
    cases o with
    | frame c p =>
      obtain ⟨hmax, -⟩ := rxFrame_of_decode1 hdecode
      refine ⟨c, p, hmax, (Option.some.inj h).symm, fun s => ?_⟩
      rw [State.withFetchWord, placeWord, hdecode]
    | empty => cases h
    | short => cases h
    | drop code => cases code <;> cases h

theorem rxPayload_placeFrame (c : Byte) {p : List Byte} {s : State} (hwf : s.rxBuf.wf = true) (hp : p.length ≤ maxPayload) :
    rxPayload (placeFrame c p s) = p := by
  have hlen : (BitVec.ofNat 16 p.length).toNat = p.length := Nat.mod_eq_of_lt (Nat.lt_succ_of_le hp)
  exact (congrArg (memPrefix _) hlen).trans (memPrefix_memLoad p s.rxBuf hwf hp)

theorem rxAtDispatch_placeFrame (c : Byte) (p : List Byte) (s : State) :
    rxAtDispatch (takeMove (placeFrame c p s)) = true := by
  rw [rxAtDispatch_iff, rxMayStep_iff]
  cases hm : s.cfg.mode <;> simp [placeFrame, hm]

/-- Settles O15: the placed registers hold the frame that the word decodes to, RX is next to move, and it can step. -/
theorem placedWordRunsNext : Obligations.PlacedWordRunsNext := by
  intro s nbits w i hwf hdecode
  obtain ⟨c, p, hp, rfl, hplaced⟩ := exists_frame_of_decodeTableWord hdecode
  rw [hplaced]
  have hstep := step_of_dispatch (s := placeFrame c p s) rfl rfl
  rw [rxPayload_placeFrame c hwf hp] at hstep
  exact ⟨hstep, rxAtDispatch_placeFrame c p s⟩

end Sys2Proof.Fetch
end

section
/-! SUPPORT. The HOST operations (R181 to R184) as one update each, and the steps that are not enabled (log 8). The obligations
StartResult, StopResult, SendCommandResult, SingleStepCallResult and NotEnabledChangesNothing. -/

namespace Sys2Proof.HostCalls

open Sys2Proof.Machine Sys2Proof.Laws

variable {s t : State}

/-- Between `step` calls HOST has a step (R181, R183, R184). -/
theorem hostStep_taken (hu : s.ufault = none) (hp : s.ssPhase = .none) : whenEnabled (hostMayCall s) s t = .next t :=
  whenEnabled_taken hu ((hostMayCall_iff s).mpr hp)

/-- While a `step` call is in progress HOST has none. -/
theorem hostStep_notTaken (hu : s.ufault = none) (hp : s.ssPhase ≠ .none) : whenEnabled (hostMayCall s) s t = .next s :=
  whenEnabled_notTaken hu (Bool.eq_false_iff.mpr (mt (hostMayCall_iff s).mp hp))

/-! ### `start` -/

/-- A transport reset is its event and the use of an answer (R182). -/
theorem useReset_emit_eq (e : Event) (s : State) :
    useReset (emit e s) = { s with events := s.events ++ [e], draws := (useReset s).draws } := by
  rw [useReset_eq, useReset_draws_of_draws (s := emit e s) (t := s) rfl]
  rfl

theorem startActions_of_ok (hs : s.started = false) (hn : s.stopNotified = false) (hr : nextReset s = .ok) :
    startActions s = activate (useReset (emit .xptReset s)) := by
  simp [startActions, hs, hn, hr]

theorem startActions_of_fail (hs : s.started = false) (hn : s.stopNotified = false) (hr : nextReset s = .fail) :
    startActions s = raiseUnspecified .reset (useReset (emit .xptReset s)) := by
  simp [startActions, hs, hn, hr]

/-- `start` of a block that was started or stopped has no other effect than the marker (R182). -/
theorem startActions_of_misuse (h : s.started = true ∨ s.stopNotified = true) :
    startActions s = raiseUnspecified .start s := by
  rw [startActions, if_pos (by simpa using h)]

/-- Settles O37: `start` is one of three actions, by its misuse and by the answer to the reset. -/
theorem startResult : Obligations.StartResult := by
  intro s hu hp
  have hexec : exec .start s = .next (startActions s) := hostStep_taken hu hp
  refine ⟨fun hs hn hr => ?_, fun hs hn hr => ?_, fun h => ?_⟩
  · rw [hexec, startActions_of_ok hs hn hr, useReset_emit_eq]
    rfl
  · rw [hexec, startActions_of_fail hs hn hr, raiseUnspecified_eq _ (by simpa using hu), useReset_emit_eq]
  · rw [hexec, startActions_of_misuse h, raiseUnspecified_eq _ hu]

/-! ### `stop`, `send_command` and `step` -/

/-- Settles O38: `stop` is `Stop()`, which adds no event the second time. -/
theorem stopResult : Obligations.StopResult := by
  intro s hu hp
  have hexec : exec .stop s = .next (stopBlock s) := hostStep_taken hu hp
  exact ⟨by rw [hexec, stopBlock_eq], fun hn => by rw [hexec, stopBlock, if_pos hn]⟩

/-- Settles O39: no lifecycle register decides whether `send_command` is taken. -/
theorem sendCommandResult : Obligations.SendCommandResult := by
  intro c p s hu hp
  exact hostStep_taken hu hp

/-- Settles O40: by the mode, and in SINGLE_STEP mode by whether the block runs. -/
theorem singleStepCallResult : Obligations.SingleStepCallResult := by
  intro s hu hp
  have hexec : exec .step s = .next (stepActions s) := hostStep_taken hu hp
  refine ⟨fun hm hs ha => ?_, fun hm hoff => ?_, fun hm => ?_⟩
  · simp [hexec, stepActions, hm, hs, ha]
  · obtain h | h := hoff <;> simp [hexec, stepActions, hm, h]
  · rw [hexec, stepActions, hm]
    exact congrArg _ (raiseUnspecified_eq _ hu)

/-! ### Steps that are not enabled -/

/-- Outside a read state, and while a byte is pending, RX does not wait (R138). -/
theorem rxWaiting_eq_false (h : s.rxState = .sync1 ∨ s.rxState = .dispatch ∨ s.rxFifo ≠ []) : rxWaiting s = false := by
  rw [Bool.eq_false_iff, Ne, rxWaiting_iff]
  rintro ⟨hempty, hsync, hdispatch, -⟩
  obtain h | h | h := h
  · exact hsync h
  · exact hdispatch h
  · exact h hempty

/-- Settles O27: each of these steps goes through `whenEnabled`, with a condition that is false. -/
theorem notEnabledChangesNothing : Obligations.NotEnabledChangesNothing := by
  refine ⟨fun s c p hu hp => ?_, fun s hu hwait => ?_, fun s k v hu hk => ?_⟩
  · exact ⟨hostStep_notTaken hu hp, hostStep_notTaken hu hp, hostStep_notTaken hu hp, hostStep_notTaken hu hp⟩
  · exact whenEnabled_notTaken hu (by rw [rxWaiting_eq_false (hwait.imp_right .inr), Bool.and_false])
  · exact whenEnabled_notTaken hu (decide_eq_false (Nat.not_lt.mpr hk))

end Sys2Proof.HostCalls
end

section
/-! SUPPORT. TX's steps as one update each (R172 to R176, R186). The obligations WriteAcceptedResult,
WriteTimeoutThreadedResult, WriteFaultThreadedResult, SingleStepWriteCycle and WriterCycleSteps. -/

namespace Sys2Proof.Writer

open Sys2Proof.Machine Sys2Proof.Laws

variable {s : State} {k : Nat}

/-! ### TX's step -/

theorem runMove_tx (hmay : txMayStep s = true) : runMove .tx s = .next (writerStep s) := by
  obtain ⟨hu, -⟩ := (txMayStep_iff s).mp hmay
  exact whenEnabled_taken hu hmay

/-- An answer that XPT can give to what TX offers is TX's step (R173, R258). -/
theorem exec_write {a : WriteAnswer} (hw : txWriting s = true) (hfit : answerFits a (txRemaining s) = true) :
    exec (.xptWriteAnswer a) s = .next (txAnswered a s) := by
  obtain ⟨hmay, -⟩ := (txWriting_iff s).mp hw
  obtain ⟨hu, -⟩ := (txMayStep_iff s).mp hmay
  exact whenEnabled_taken hu (by rw [hw, hfit]; rfl)

/-! ### `ACCEPT(k)` -/

theorem exec_accept (hmay : txMayStep s = true) (hst : s.txState = .busy) (hlt : s.txOff < s.txCur.length)
    (hk : k ≤ s.txCur.length - s.txOff) : exec (.xptWriteAnswer (.accept k)) s = .next (txAccepted (txAccept k s)) :=
  exec_write ((txWriting_iff s).mpr ⟨hmay, hst, hlt⟩) (decide_eq_true hk)

theorem txAccepted_of_partial (h : s.txOff + k < s.txCur.length) : txAccepted (txAccept k s) = txAccept k s :=
  if_neg h.ne

/-- The rest of the frame accepted puts all of it on the wire and ends the write cycle (R173, R186). -/
theorem txAccepted_of_complete (h : s.txOff + k = s.txCur.length) : txAccepted (txAccept k s) = { s with
    txWire := s.txWire ++ s.txCur.drop s.txOff, txOff := s.txOff + k, txState := .idle,
    ssPhase := if s.cfg.mode = .singleStep then .none else s.ssPhase } := by
  have hall : (s.txCur.drop s.txOff).take k = s.txCur.drop s.txOff :=
    List.take_of_length_le (by rw [List.length_drop]; omega)
  have hdone : (txAccept k s).txOff = (txAccept k s).txCur.length := h
  rw [txAccepted, if_pos hdone, endWriteCycle_eq, txAccept, hall]

/-- Settles O45: an accepted part either is the rest of the frame or leaves some of it. -/
theorem writeAcceptedResult : Obligations.WriteAcceptedResult := by
  intro k s hmay hst hlt hk
  have hexec := exec_accept hmay hst hlt hk
  exact ⟨fun hpart => by rw [hexec, txAccepted_of_partial hpart, txAccept],
    fun hall => by rw [hexec, txAccepted_of_complete hall]⟩

/-! ### `TIMEOUT(k)` and `FAULT(k)` -/

/-- A write that fails leaves at least one byte of the frame (R258). -/
theorem txWriting_of_left (hmay : txMayStep s = true) (hst : s.txState = .busy) (hk : k < s.txCur.length - s.txOff) :
    txWriting s = true :=
  (txWriting_iff s).mpr ⟨hmay, hst, by omega⟩

theorem exec_timeout (hmay : txMayStep s = true) (hst : s.txState = .busy) (hk : k < s.txCur.length - s.txOff) :
    exec (.xptWriteAnswer (.timeout k)) s = .next (txTimedOut (txAccept k s)) :=
  exec_write (txWriting_of_left hmay hst hk) (decide_eq_true hk)

theorem exec_fault (hmay : txMayStep s = true) (hst : s.txState = .busy) (hk : k < s.txCur.length - s.txOff) :
    exec (.xptWriteAnswer (.fault k)) s = .next (txFaulted (txAccept k s)) :=
  exec_write (txWriting_of_left hmay hst hk) (decide_eq_true hk)

/-- Under `RETRY_REMAINDER` the registers keep the frame and the position (R174). -/
theorem txTimedOut_retry (hm : s.cfg.mode = .threaded) (hp : s.cfg.wrTimeoutPolicy = .retryRemainder) :
    txTimedOut s = { s with
      txState := .pause, events := s.events ++ [.diag (.txTimeout s.txOff s.txCur.length)] } := by
  simp only [txTimedOut, hm, dropRemainder, diag_cfg, hp]
  rfl

/-- Under `DROP_REMAINDER` they hold some value (R174, log 6). -/
theorem exists_txTimedOut_drop (hm : s.cfg.mode = .threaded) (hp : s.cfg.wrTimeoutPolicy = .dropRemainder) :
    ∃ (cur : List Byte) (off : Nat) (d : Draws), txTimedOut s = { s with
      txCur := cur, txOff := off, txState := .pause, draws := d,
      events := s.events ++ [.diag (.txTimeout s.txOff s.txCur.length)] } := by
  simp only [txTimedOut, hm, dropRemainder, diag_cfg, hp]
  exact ⟨_, _, _, rfl⟩

/-- Settles O46: the timeout's diagnostic and pause, and what the policy leaves of the frame. -/
theorem writeTimeoutThreadedResult : Obligations.WriteTimeoutThreadedResult := by
  intro k s hm hmay hst hk
  have hexec := exec_timeout hmay hst hk
  refine ⟨fun hp => ?_, fun hp => ?_⟩
  · rw [hexec, txTimedOut_retry (s := txAccept k s) hm hp]
    rfl
  · obtain ⟨cur, off, d, hdrop⟩ := exists_txTimedOut_drop (s := txAccept k s) hm hp
    exact ⟨cur, off, d, hexec.trans (congrArg _ hdrop)⟩

theorem txFaulted_threaded (hm : s.cfg.mode = .threaded) :
    txFaulted s = haltTx (diag (.txFault s.txOff s.txCur.length) s) := by
  rw [txFaulted, hm]

/-- Settles O47: the fault's diagnostic and TX's halt. -/
theorem writeFaultThreadedResult : Obligations.WriteFaultThreadedResult := by
  intro k s hm hmay hst hk
  rw [exec_fault hmay hst hk, txFaulted_threaded (s := txAccept k s) hm, haltTx_eq]
  rfl

/-! ### The single-step write cycle -/

theorem txFaulted_singleStep (hm : s.cfg.mode = .singleStep) : txFaulted s =
    { stopBlock (diag (.txFault s.txOff s.txCur.length) s) with txState := .idle, ssPhase := .none } := by
  rw [txFaulted, hm]

theorem resumeState_eq (p : WrTimeoutPolicy) : resumeState p = if p = .retryRemainder then .busy else .idle := by
  cases p <;> rfl

theorem txTimedOut_continue (hm : s.cfg.mode = .singleStep) (hd : nextTimeout s = .continue) : txTimedOut s = { s with
    ssPhase := .none, txState := if s.cfg.wrTimeoutPolicy = .retryRemainder then .busy else .idle,
    draws := (useTimeout s).draws, events := s.events ++ [.diag (.txTimeout s.txOff s.txCur.length)] } := by
  rw [txTimedOut, hm]
  simp only [txTimedOutSingle, hd, resumeState_eq]
  rw [useTimeout_eq]
  rfl

theorem txTimedOut_stop (hm : s.cfg.mode = .singleStep) (hd : nextTimeout s = .stop) : txTimedOut s = { s with
    ssPhase := .none, txState := .idle, alive := false, stopNotified := true, draws := (useTimeout s).draws,
    events := s.events ++ [.diag (.txTimeout s.txOff s.txCur.length)] ++ stopEvents s } := by
  rw [txTimedOut, hm]
  simp only [txTimedOutSingle, hd]
  rw [useTimeout_eq, stopBlock_eq]
  rfl

/-- Accepted bytes use no draw. -/
theorem useTimeout_txAccept_draws (k : Nat) (s : State) : (useTimeout (txAccept k s)).draws = (useTimeout s).draws :=
  useTimeout_draws_of_draws (txAccept_draws k s)

theorem writerStep_idle (hst : s.txState = .idle) (hrun : s.alive = true ∨ s.cfg.mode = .singleStep) :
    writerStep s = txDequeue s := by
  have hstay : ¬ (s.cfg.mode = .threaded ∧ s.alive = false) := by
    rintro ⟨hm, ha⟩
    simp [hm, ha] at hrun
  rw [writerStep, hst]
  exact if_neg hstay

theorem txDequeue_nil (hq : s.queue = []) : txDequeue s =
    { s with ssPhase := if s.cfg.mode = .singleStep then .none else s.ssPhase } := by
  rw [← endWriteCycle_eq, txDequeue, hq]

/-- Settles O48: each end of the cycle is its update, returned to HOST. -/
theorem singleStepWriteCycle : Obligations.SingleStepWriteCycle := by
  refine ⟨fun s hm hmay hst hq => ?_, fun k s hm hmay hst hlt => ⟨fun hk => ?_, fun hk => ⟨?_, fun hd => ?_, fun hd => ?_⟩⟩⟩
  · rw [runMove_tx hmay, writerStep_idle hst (.inr hm), txDequeue_nil hq, if_pos hm]
  · have hall : s.txOff + k = s.txCur.length := by omega
    rw [exec_accept hmay hst hlt hk.le, txAccepted_of_complete hall, hall, if_pos hm]
  · rw [exec_fault hmay hst hk, txFaulted_singleStep (s := txAccept k s) hm, stopBlock_eq]
    rfl
  · rw [exec_timeout hmay hst hk, txTimedOut_continue (s := txAccept k s) hm hd, useTimeout_txAccept_draws]
    rfl
  · rw [exec_timeout hmay hst hk, txTimedOut_stop (s := txAccept k s) hm hd, useTimeout_txAccept_draws]
    rfl

/-! ### Between writes -/

theorem writerStep_pause (hm : s.cfg.mode = .threaded) (hst : s.txState = .pause) : writerStep s =
    if s.alive = false then haltTx s else { s with txState := resumeState s.cfg.wrTimeoutPolicy } := by
  rw [writerStep, hst]
  simp only [txPauseStep, hm]

/-- Settles O57: at `T_IDLE` by the queue, at `T_PAUSE` by whether the block is alive. -/
theorem writerCycleSteps : Obligations.WriterCycleSteps := by
  refine ⟨fun s f fs hmay hrun hst hq => ?_, fun s hmay hrun hst hq => ?_,
    fun s hm hmay hst => ⟨fun ha => ?_, fun ha => ?_⟩⟩
  · rw [runMove_tx hmay, writerStep_idle hst hrun, txDequeue, hq]
  · rw [runMove_tx hmay, writerStep_idle hst hrun, txDequeue_nil hq]
  · rw [runMove_tx hmay, writerStep_pause hm hst, if_pos ha, haltTx_eq, ← ha]
  · rw [runMove_tx hmay, writerStep_pause hm hst, if_neg (by simp [ha]), resumeState_eq]

end Sys2Proof.Writer
end

section
/-! SUPPORT. A trace holds one `STOPPED` more after `Stop()` first ran, and no other step adds or clears anything of that (R187).
The obligation StoppedAtMostOnce. -/

namespace Sys2Proof.StopOnce

open Sys2Proof.Machine Sys2Proof.Laws Sys2Proof.Invariant Sys2Proof.Scope

variable {s t : State}

/-- The `STOPPED` events that `stop_notified` does not account for. No step changes their number. -/
def stopSurplus (s : State) : Int := stoppedCount s.events - if s.stopNotified then 1 else 0

theorem stopSurplus_eq_zero_iff :
    stopSurplus s = 0 ↔ stoppedCount s.events = if s.stopNotified then 1 else 0 := by
  unfold stopSurplus
  split <;> omega

theorem stopSurplus_congr (he : t.events = s.events) (hn : t.stopNotified = s.stopNotified) :
    stopSurplus t = stopSurplus s := by
  rw [stopSurplus, stopSurplus, he, hn]

/-! ### The operations that write the trace or the flag -/

theorem stopSurplus_emit {e : Event} (he : e ≠ .stopped) (s : State) : stopSurplus (emit e s) = stopSurplus s := by
  rw [stopSurplus, stopSurplus, emit_events, emit_stopNotified, stoppedCount_append_singleton he]

@[simp] theorem stopSurplus_diag (d : Diag) (s : State) : stopSurplus (diag d s) = stopSurplus s :=
  stopSurplus_emit (by simp) s

@[simp] theorem stopSurplus_emit_del (e : DelCall) (s : State) : stopSurplus (emit (.del e) s) = stopSurplus s :=
  stopSurplus_emit (by simp) s

@[simp] theorem stopSurplus_emit_reset (s : State) : stopSurplus (emit .xptReset s) = stopSurplus s :=
  stopSurplus_emit (by simp) s

/-- `Stop()` adds the event and sets the flag together (R180). -/
@[simp] theorem stopSurplus_stopBlock (s : State) : stopSurplus (stopBlock s) = stopSurplus s := by
  cases hn : s.stopNotified <;> simp [stopSurplus, hn, stoppedCount]

theorem stopSurplus_ite {c : Prop} [Decidable c] {a b : State} (ha : stopSurplus a = stopSurplus s)
    (hb : stopSurplus b = stopSurplus s) : stopSurplus (if c then a else b) = stopSurplus s := by
  rw [apply_ite stopSurplus, ha, hb, ite_self]

/-! ### The shared operations -/

@[simp] theorem stopSurplus_haltRx (s : State) : stopSurplus (haltRx s) = stopSurplus s := stopSurplus_stopBlock s

@[simp] theorem stopSurplus_haltTx (s : State) : stopSurplus (haltTx s) = stopSurplus s := stopSurplus_stopBlock s

@[simp] theorem stopSurplus_raiseUnspecified (u : UCode) (s : State) :
    stopSurplus (raiseUnspecified u s) = stopSurplus s := stopSurplus_congr (by simp) (by simp)

@[simp] theorem stopSurplus_endAttempt (s : State) : stopSurplus (endAttempt s) = stopSurplus s :=
  stopSurplus_congr (by simp) (by simp)

@[simp] theorem stopSurplus_endWriteCycle (s : State) : stopSurplus (endWriteCycle s) = stopSurplus s :=
  stopSurplus_congr (by simp) (by simp)

@[simp] theorem stopSurplus_countRead (q : ReadCountPoint) (s : State) : stopSurplus (countRead q s) = stopSurplus s :=
  stopSurplus_congr (by simp) (by simp)

@[simp] theorem stopSurplus_useCall (s : State) : stopSurplus (useCall s) = stopSurplus s :=
  stopSurplus_congr (by simp) (by simp)

@[simp] theorem stopSurplus_useSysTime (s : State) : stopSurplus (useSysTime s) = stopSurplus s :=
  stopSurplus_congr (by simp) (by simp)

@[simp] theorem stopSurplus_useReset (s : State) : stopSurplus (useReset s) = stopSurplus s :=
  stopSurplus_congr (by simp) (by simp)

@[simp] theorem stopSurplus_useTimeout (s : State) : stopSurplus (useTimeout s) = stopSurplus s :=
  stopSurplus_congr (by simp) (by simp)

/-! ### Dispatch -/

@[simp] theorem stopSurplus_takeRxException (x : RxException) (s : State) :
    stopSurplus (takeRxException x s) = stopSurplus s := by
  unfold takeRxException
  split
  · obtain hx | ⟨d, hx⟩ := exceptionDiag_cases x s <;> simp [hx]
  · simp

@[simp] theorem stopSurplus_endDispatch (r : State × Ending) : stopSurplus (endDispatch r) = stopSurplus r.1 := by
  unfold endDispatch
  split <;> simp

@[simp] theorem stopSurplus_callDelegate (e : DelCall) (s : State) :
    stopSurplus (callDelegate e s).1 = stopSurplus s := by
  obtain h | h := callDelegate_cases e s <;> simp [h]

theorem stopSurplus_logActions (l : LogLevel) (p : List Byte) (s : State) :
    stopSurplus (logActions l p s).1 = stopSurplus s := by
  unfold logActions
  split
  · exact stopSurplus_callDelegate _ s
  · rfl

theorem stopSurplus_paramActions (p : List Byte) (s : State) : stopSurplus (paramActions p s).1 = stopSurplus s := by
  unfold paramActions
  split
  · exact stopSurplus_callDelegate _ (countParam s)
  · rfl

theorem stopSurplus_timeSyncAnswered (p : List Byte) (a : SysTimeAnswer) (s : State) :
    stopSurplus (timeSyncAnswered p a s).1 = stopSurplus s := by
  cases a with
  | time hs hn => exact stopSurplus_diag _ (setTimeSynced (sendFrame 0x01#8 (timeReply hs hn) s))
  | error => rfl

theorem stopSurplus_timeSyncActions (p : List Byte) (s : State) :
    stopSurplus (timeSyncActions p s).1 = stopSurplus s := by
  unfold timeSyncActions
  split
  · rfl
  · simp [stopSurplus_timeSyncAnswered]

/-! ### The HOST operations -/

theorem stopSurplus_startActions (s : State) : stopSurplus (startActions s) = stopSurplus s := by
  have hused : stopSurplus (useReset (emit .xptReset s)) = stopSurplus s := by simp
  unfold startActions
  split
  · simp
  · split
    · exact hused
    · simp

theorem stopSurplus_stepActions (s : State) : stopSurplus (stepActions s) = stopSurplus s := by
  unfold stepActions
  split
  · simp
  · split <;> rfl

/-! ### The Reader -/

/-- A dropped byte or frame is a diagnostic (R122, R124, R135). -/
theorem stopSurplus_drop (d : Diag) (s : State) : stopSurplus (endAttempt (diag d s)) = stopSurplus s := by simp

theorem stopSurplus_readByte (b : Byte) (rest : List Byte) (s : State) :
    stopSurplus (readByte b rest s) = stopSurplus s := by
  unfold readByte
  cases s.rxState with
  | sync1 => exact stopSurplus_ite rfl (stopSurplus_drop _ (rxTake rest s))
  | sync2 => exact stopSurplus_ite rfl (stopSurplus_drop _ (rxTake rest s))
  | cmd => rfl
  | len =>
    have hcount := stopSurplus_countRead .onPayload { rxTake rest s with rxLen := setLenHi s.rxLen b, rxIdx := 0#16 }
    exact stopSurplus_ite rfl (stopSurplus_ite (stopSurplus_ite hcount rfl) rfl)
  | payload =>
    have hcount := stopSurplus_countRead .onPayload (storePayload b (rxTake rest s))
    exact stopSurplus_ite (stopSurplus_ite hcount rfl) rfl
  | csum => exact stopSurplus_ite (stopSurplus_countRead _ (rxTake rest s)) (stopSurplus_drop _ (rxTake rest s))
  | dispatch => rfl
  | halt => rfl

theorem stopSurplus_readNothing (s : State) : stopSurplus (readNothing s) = stopSurplus s := by
  unfold readNothing
  split
  · simp
  all_goals rfl

theorem stopSurplus_readerStep (s : State) : stopSurplus (readerStep s) = stopSurplus s := by
  obtain ⟨-, h⟩ | ⟨-, -, h⟩ | ⟨b, rest, -, -, h⟩ := readerStep_cases s <;> rw [h]
  · exact stopSurplus_haltRx s
  · exact stopSurplus_readNothing s
  · exact stopSurplus_readByte b rest s

/-! ### The Writer -/

theorem stopSurplus_txTimedOut (s : State) : stopSurplus (txTimedOut s) = stopSurplus s := by
  have hdiag : stopSurplus (diag (.txTimeout s.txOff s.txCur.length) (useTimeout s)) = stopSurplus s := by simp
  unfold txTimedOut dropRemainder txTimedOutSingle
  split
  · split <;> exact stopSurplus_diag _ s
  · split
    · exact hdiag
    · exact (stopSurplus_stopBlock _).trans hdiag

theorem stopSurplus_txFaulted (s : State) : stopSurplus (txFaulted s) = stopSurplus s := by
  unfold txFaulted
  split <;> exact (stopSurplus_stopBlock _).trans (stopSurplus_diag _ s)

theorem stopSurplus_txAnswered (a : WriteAnswer) (s : State) : stopSurplus (txAnswered a s) = stopSurplus s := by
  cases a with
  | accept k => exact stopSurplus_ite (stopSurplus_endWriteCycle { txAccept k s with txState := .idle }) rfl
  | timeout k => exact stopSurplus_txTimedOut (txAccept k s)
  | fault k => exact stopSurplus_txFaulted (txAccept k s)

theorem stopSurplus_txDequeue (s : State) : stopSurplus (txDequeue s) = stopSurplus s := by
  unfold txDequeue
  split
  · exact stopSurplus_endWriteCycle s
  · rfl

theorem stopSurplus_writerStep (s : State) : stopSurplus (writerStep s) = stopSurplus s := by
  unfold writerStep txPauseStep
  split
  · exact stopSurplus_ite (stopSurplus_haltTx s) (stopSurplus_txDequeue s)
  · split
    · rfl
    · exact stopSurplus_ite (stopSurplus_haltTx s) rfl
  · rfl
  · rfl

/-! ### Every step and every run -/

theorem stopSurplus_of_effect (he : Effect s t) : stopSurplus t = stopSurplus s := by
  cases he with
  | unknown c p => exact (stopSurplus_endDispatch _).trans (stopSurplus_diag _ s)
  | publish c p => exact (stopSurplus_endDispatch _).trans (stopSurplus_callDelegate _ s)
  | log l p => exact (stopSurplus_endDispatch _).trans (stopSurplus_logActions l p s)
  | param p => exact (stopSurplus_endDispatch _).trans (stopSurplus_paramActions p s)
  | timeSync p => exact (stopSurplus_endDispatch _).trans (stopSurplus_timeSyncActions p s)
  | sysTime a => exact (stopSurplus_endDispatch _).trans (stopSurplus_timeSyncActions _ (offerSysTime a s))
  | start => exact stopSurplus_startActions s
  | stop => exact stopSurplus_stopBlock s
  | send c p => rfl
  | call => exact stopSurplus_stepActions s
  | status => rfl
  | byte b => rfl
  | timeout => exact stopSurplus_takeRxException _ s
  | ioErr => exact stopSurplus_takeRxException _ s
  | write a => exact stopSurplus_txAnswered a s
  | result k values => rfl
  | reader => exact stopSurplus_readerStep s
  | rxExit => exact stopSurplus_haltRx s
  | writer => exact stopSurplus_writerStep s
  | txExit => exact stopSurplus_haltTx s

theorem stopSurplus_of_step (h : step s = .next t) : stopSurplus t = stopSurplus s := by
  obtain rfl | he := step_effect h
  · rfl
  · exact (stopSurplus_of_effect he).trans rfl

/-- What every step keeps, every run keeps. -/
theorem run_keeps {P : State → Prop} (hstep : ∀ s t, P s → step s = .next t → P t) (n : Nat) (s t : State) (hs : P s)
    (hrun : core.run n s = .next t) : P t := by
  induction n generalizing s with
  | zero =>
    cases hrun
    exact hs
  | succ n ih =>
    simp only [Host.Core.run] at hrun
    split at hrun
    next r hr => exact ih r (hstep s r hs hr) hrun
    next => cases hrun
    next => cases hrun

/-- Settles O20: no step changes the surplus, and none clears `stop_notified` (`Forward`). -/
theorem stoppedAtMostOnce : Obligations.StoppedAtMostOnce := by
  refine ⟨stopBlock_stopNotified, fun n s t hcount hrun => ?_⟩
  have hsurplus : stopSurplus t = 0 :=
    run_keeps (fun _ _ h hst => (stopSurplus_of_step hst).trans h) n s t (stopSurplus_eq_zero_iff.mpr hcount) hrun
  have hexact := stopSurplus_eq_zero_iff.mp hsurplus
  refine ⟨?_, fun hn => ?_, fun hn => ?_⟩
  · rw [hexact]
    split <;> omega
  · rw [hexact, if_pos hn]
  · refine run_keeps (P := fun r => r.stopNotified = true) (fun s t hs hst => ?_) n s t hn hrun
    obtain ⟨-, -, hkept, -⟩ := forward_of_runMove hst
    exact hkept hs

end Sys2Proof.StopOnce
end

section
/-! SUPPORT. Which steps are RX's and which are TX's, and that every other step leaves their registers alone; the halts (R164,
R178) and the exits after a stop (R161, R163, R171, R177). The obligations HaltsAreTerminal and LoopsExitAfterStop. -/

namespace Sys2Proof.Loops

open Sys2Proof.Machine Sys2Proof.Laws Sys2Proof.Wire

variable {s t r : State}

/-! ### RX's registers -/

/-- Where RX stands in its attempt, and what is pending. -/
def rxRegs (s : State) : RxState × BitVec 16 × BitVec 16 × List Byte := (s.rxState, s.rxIdx, s.rxLen, s.rxFifo)

/-- RX stands where it stood; bytes may have arrived (R257). -/
def RxKept (s t : State) : Prop :=
  t.rxState = s.rxState ∧ t.rxIdx = s.rxIdx ∧ t.rxLen = s.rxLen ∧ s.rxFifo <+: t.rxFifo

theorem RxKept.of_rxRegs (h : rxRegs t = rxRegs s) : RxKept s t := by
  obtain ⟨hstate, hidx, hlen, hfifo⟩ :
      t.rxState = s.rxState ∧ t.rxIdx = s.rxIdx ∧ t.rxLen = s.rxLen ∧ t.rxFifo = s.rxFifo := by simpa [rxRegs] using h
  exact ⟨hstate, hidx, hlen, hfifo ▸ List.prefix_refl _⟩

theorem RxKept.refl (s : State) : RxKept s s := .of_rxRegs rfl

theorem rxRegs_stopBlock (s : State) : rxRegs (stopBlock s) = rxRegs s := by simp [rxRegs]

theorem rxRegs_haltTx (s : State) : rxRegs (haltTx s) = rxRegs s := rxRegs_stopBlock s

theorem rxRegs_raiseUnspecified (u : UCode) (s : State) : rxRegs (raiseUnspecified u s) = rxRegs s := by simp [rxRegs]

theorem rxRegs_endWriteCycle (s : State) : rxRegs (endWriteCycle s) = rxRegs s := by simp [rxRegs]

theorem rxRegs_useTimeout (s : State) : rxRegs (useTimeout s) = rxRegs s := by simp [rxRegs]

theorem rxRegs_stepActions (s : State) : rxRegs (stepActions s) = rxRegs s := by
  unfold stepActions
  split
  · exact rxRegs_raiseUnspecified _ s
  · split <;> rfl

theorem rxRegs_txTimedOut (s : State) : rxRegs (txTimedOut s) = rxRegs s := by
  unfold txTimedOut dropRemainder txTimedOutSingle
  split
  · split <;> rfl
  · split
    · exact rxRegs_useTimeout s
    · exact (rxRegs_stopBlock _).trans (rxRegs_useTimeout s)

theorem rxRegs_txFaulted (s : State) : rxRegs (txFaulted s) = rxRegs s := by
  unfold txFaulted
  split <;> exact rxRegs_stopBlock (diag _ s)

theorem rxRegs_txAccepted (s : State) : rxRegs (txAccepted s) = rxRegs s := by
  unfold txAccepted
  split
  · exact rxRegs_endWriteCycle { s with txState := .idle }
  · rfl

theorem rxRegs_txAnswered (a : WriteAnswer) (s : State) : rxRegs (txAnswered a s) = rxRegs s := by
  cases a with
  | accept k => exact rxRegs_txAccepted (txAccept k s)
  | timeout k => exact rxRegs_txTimedOut (txAccept k s)
  | fault k => exact rxRegs_txFaulted (txAccept k s)

theorem rxRegs_txIdleStep (s : State) : rxRegs (txIdleStep s) = rxRegs s := by
  unfold txIdleStep txDequeue
  split
  · exact rxRegs_haltTx s
  · split
    · exact rxRegs_endWriteCycle s
    · rfl

theorem rxRegs_txPauseStep (s : State) : rxRegs (txPauseStep s) = rxRegs s := by
  unfold txPauseStep
  split
  · rfl
  · split
    · exact rxRegs_haltTx s
    · rfl

theorem rxRegs_writerStep (s : State) : rxRegs (writerStep s) = rxRegs s := by
  unfold writerStep
  split
  · exact rxRegs_txIdleStep s
  · exact rxRegs_txPauseStep s
  · rfl
  · rfl

/-! ### Whose step it is -/

/-- A step of RX: a dispatch, a read, an exception, or the optional exit (R137, R160 to R163). -/
inductive RxStep (s : State) : State → Prop
  | dispatch (r : State × Ending) (h : rxAtDispatch s = true) : RxStep s (endDispatch r)
  | read (h : rxMayStep s = true) (hd : s.rxState ≠ .dispatch) : RxStep s (readerStep s)
  | fail (x : RxException) (h : rxMayStep s = true) : RxStep s (takeRxException x s)
  | exit (h : rxMayExit s = true) : RxStep s (haltRx s)

/-- A step of TX: a loop step, a write with XPT's answer, or the optional exit (R170, R173, R177). -/
inductive TxStep (s : State) : State → Prop
  | own (h : txMayStep s = true) : TxStep s (writerStep s)
  | write (a : WriteAnswer) (h : txWriting s = true) (hfit : answerFits a (txRemaining s) = true) :
      TxStep s (txAnswered a s)
  | exit (h : txMayExit s = true) : TxStep s (haltTx s)

theorem RxStep.mayStep (h : RxStep s t) : rxMayStep s = true := by
  cases h with
  | dispatch _ h => exact ((rxAtDispatch_iff s).mp h).1
  | read h => exact h
  | fail _ h => exact h
  | exit h => exact ((rxMayExit_iff s).mp h).1

theorem TxStep.mayStep (h : TxStep s t) : txMayStep s = true := by
  cases h with
  | own h => exact h
  | write _ h => exact ((txWriting_iff s).mp h).1
  | exit h => exact ((txMayExit_iff s).mp h).1

/-- `start` after a stop is misuse (R182), so that every step but RX's own leaves RX where it stands. -/
theorem rxStep_or_kept (hn : s.stopNotified = true) (he : Effect s t) : RxStep s t ∨ RxKept s t := by
  cases he with
  | unknown c p _ h => exact .inl (.dispatch _ h)
  | publish c p _ h => exact .inl (.dispatch _ h)
  | log l p _ h => exact .inl (.dispatch _ h)
  | param p _ h => exact .inl (.dispatch _ h)
  | timeSync p _ h => exact .inl (.dispatch _ h)
  | sysTime a _ h => exact .inl (.dispatch _ (sysTimeCalled_cases h).1)
  | timeout _ h => exact .inl (.fail _ h)
  | ioErr _ h => exact .inl (.fail _ h)
  | reader _ h hd => exact .inl (.read h hd)
  | rxExit _ h => exact .inl (.exit h)
  | start =>
    rw [HostCalls.startActions_of_misuse (.inr hn)]
    exact .inr (.of_rxRegs (rxRegs_raiseUnspecified _ s))
  | stop => exact .inr (.of_rxRegs (rxRegs_stopBlock s))
  | send c p => exact .inr (.refl s)
  | call => exact .inr (.of_rxRegs (rxRegs_stepActions s))
  | status => exact .inr (.refl s)
  | byte b => exact .inr ⟨rfl, rfl, rfl, List.prefix_append _ _⟩
  | result k values => exact .inr (.refl s)
  | write a => exact .inr (.of_rxRegs (rxRegs_txAnswered a s))
  | writer => exact .inr (.of_rxRegs (rxRegs_writerStep s))
  | txExit => exact .inr (.of_rxRegs (rxRegs_haltTx s))

/-- Every step but TX's own leaves TX's registers alone. -/
theorem txStep_or_kept (hb : BlockInv s) (he : Effect s t) : TxStep s t ∨ txRegs t = txRegs s := by
  cases he with
  | unknown c p => exact .inr (txRegs_endDispatch _)
  | publish c p => exact .inr ((txRegs_endDispatch _).trans (txRegs_callDelegate _ s))
  | log l p => exact .inr ((txRegs_endDispatch _).trans (txRegs_logActions l p s))
  | param p => exact .inr ((txRegs_endDispatch _).trans (txRegs_paramActions p s))
  | timeSync p => exact .inr ((txRegs_endDispatch _).trans (txRegs_timeSyncActions p s))
  | sysTime a => exact .inr ((txRegs_endDispatch _).trans (txRegs_timeSyncActions _ (offerSysTime a s)))
  | timeout => exact .inr (txRegs_takeRxException _ s)
  | ioErr => exact .inr (txRegs_takeRxException _ s)
  | reader => exact .inr (txRegs_readerStep s)
  | rxExit => exact .inr (txRegs_haltRx s)
  | start => exact .inr (txRegs_startActions hb)
  | stop => exact .inr (txRegs_stopBlock s)
  | send c p => exact .inr rfl
  | call => exact .inr (txRegs_stepActions s)
  | status => exact .inr rfl
  | byte b => exact .inr rfl
  | result k values => exact .inr rfl
  | write a _ h hfit => exact .inl (.write a h hfit)
  | writer _ h => exact .inl (.own h)
  | txExit _ h => exact .inl (.exit h)

/-! ### The halts -/

theorem rxMayStep_of_halt (h : s.rxState = .halt) : rxMayStep s = false := by
  rw [Bool.eq_false_iff, Ne, rxMayStep_iff]
  exact fun hmay => hmay.2.1 h

theorem txMayStep_of_halt (h : s.txState = .halt) : txMayStep s = false := by
  rw [Bool.eq_false_iff, Ne, txMayStep_iff]
  exact fun hmay => hmay.2.1 h

/-- A halt comes with a stop (R161, R162), so that HOST cannot start the block again. -/
theorem rxState_of_effect_of_halt (hb : BlockInv s) (he : Effect s t) (h : s.rxState = .halt) : t.rxState = .halt := by
  obtain ⟨⟨-, -, -, hstopped, -⟩, -⟩ := hb
  obtain hstep | ⟨hkept, -⟩ := rxStep_or_kept (hstopped h) he
  · exact nomatch hstep.mayStep.symm.trans (rxMayStep_of_halt h)
  · rw [hkept, h]

theorem txState_of_effect_of_halt (hb : BlockInv s) (he : Effect s t) (h : s.txState = .halt) : t.txState = .halt := by
  obtain hstep | hkept := txStep_or_kept hb he
  · exact nomatch hstep.mayStep.symm.trans (txMayStep_of_halt h)
  · exact (congrArg Prod.fst hkept).trans h

/-- Settles O23: a halted loop may not step, and no step but its own writes its state. -/
theorem haltsAreTerminal : Obligations.HaltsAreTerminal := by
  refine ⟨fun s hu h => ?_, fun s hu h => ?_, fun s t hb hstep => ?_⟩
  · have hmay := rxMayStep_of_halt h
    have hd : s.rxState ≠ .dispatch := by simp [h]
    refine ⟨?_, whenEnabled_notTaken hu (by rw [rxMayExit, hmay]; rfl)⟩
    rw [runMove, rxMove, if_neg hd, whenEnabled_notTaken hu hmay]
  · have hmay := txMayStep_of_halt h
    exact ⟨whenEnabled_notTaken hu hmay, whenEnabled_notTaken hu (by rw [txMayExit, hmay]; rfl)⟩
  · have htake : BlockInv (takeMove s) := hb
    obtain rfl | he := step_effect hstep
    · exact ⟨id, id⟩
    · exact ⟨rxState_of_effect_of_halt (s := takeMove s) htake he, txState_of_effect_of_halt (s := takeMove s) htake he⟩

/-! ### The exits after a stop -/

theorem rxMayStep_of_threaded (hm : s.cfg.mode = .threaded) (hu : s.ufault = none) (hs : s.started = true)
    (hst : s.rxState ≠ .halt) : rxMayStep s = true :=
  (rxMayStep_iff s).mpr ⟨hu, hst, .inl ⟨hm, hs⟩⟩

theorem txMayStep_of_threaded (hm : s.cfg.mode = .threaded) (hu : s.ufault = none) (hs : s.started = true)
    (hst : s.txState ≠ .halt) : txMayStep s = true :=
  (txMayStep_iff s).mpr ⟨hu, hst, .inl ⟨hm, hs⟩⟩

/-- The iteration boundary of a stopped THREADED block (R161). -/
theorem readerStep_boundary (hm : s.cfg.mode = .threaded) (ha : s.alive = false) (hst : s.rxState = .sync1) :
    readerStep s = haltRx s := by
  simp [readerStep, rxExitsAtBoundary, hm, ha, hst]

/-- An idle TX of a stopped THREADED block (R171). -/
theorem writerStep_idle_stopped (hm : s.cfg.mode = .threaded) (ha : s.alive = false) (hst : s.txState = .idle) :
    writerStep s = haltTx s := by
  simp [writerStep, txIdleStep, hm, ha, hst]

theorem haltRx_of_stopped (ha : s.alive = false) :
    haltRx s = { s with events := s.events ++ stopEvents s, stopNotified := true, rxState := .halt } := by
  rw [haltRx_eq, ← ha]

theorem haltTx_of_stopped (ha : s.alive = false) :
    haltTx s = { s with events := s.events ++ stopEvents s, stopNotified := true, txState := .halt } := by
  rw [haltTx_eq, ← ha]

/-- R163's boundaries at which RX does not wait. -/
def AtExit (s : State) : Prop :=
  s.rxState = .dispatch ∨ s.rxFifo ≠ [] ∧ (s.rxState ∈ [RxState.sync2, .cmd, .csum] ∨
    s.rxState ∈ [RxState.len, .payload] ∧ s.rxIdx = 0#16)

theorem AtExit.cases (h : AtExit s) : s.rxState ≠ .halt ∧ atReadBoundary s = true ∧ rxWaiting s = false := by
  obtain hst | ⟨hf, hst | ⟨hst, hidx⟩⟩ := h
  · exact ⟨by simp [hst], by simp [atReadBoundary, hst], HostCalls.rxWaiting_eq_false (.inr (.inl hst))⟩
  · have hpending := HostCalls.rxWaiting_eq_false (.inr (.inr hf))
    simp only [List.mem_cons, List.not_mem_nil, or_false] at hst
    obtain hst | hst | hst := hst <;> exact ⟨by simp [hst], by simp [atReadBoundary, hst], hpending⟩
  · have hpending := HostCalls.rxWaiting_eq_false (.inr (.inr hf))
    simp only [List.mem_cons, List.not_mem_nil, or_false] at hst
    obtain hst | hst := hst <;> exact ⟨by simp [hst], by simp [atReadBoundary, hst, hidx], hpending⟩

/-- Past the first byte of `R_LEN` or `R_PAYLOAD` RX is inside a read step (R163). -/
theorem atReadBoundary_inside (hst : s.rxState ∈ [RxState.len, .payload]) (hidx : s.rxIdx ≠ 0#16) :
    atReadBoundary s = false := by
  simp only [List.mem_cons, List.not_mem_nil, or_false] at hst
  obtain hst | hst := hst <;> simp [atReadBoundary, hst, hidx]

/-- Settles O53: the exits that are enabled halt their loop, and the others are not taken. -/
theorem loopsExitAfterStop : Obligations.LoopsExitAfterStop := by
  intro s hm hu hs ha
  refine ⟨fun hst => ?_, fun hexit => ?_, fun hst hidx => ?_, fun hwait => ?_, fun hst => ?_, fun hst => ?_⟩
  · have hmay := rxMayStep_of_threaded hm hu hs (by simp [hst])
    rw [Reader.runMove_rx_of_ne_dispatch hmay (by simp [hst]), readerStep_boundary hm ha hst, haltRx_of_stopped ha]
  · obtain ⟨hhalt, hboundary, hwait⟩ := AtExit.cases hexit
    have hmay := rxMayStep_of_threaded hm hu hs hhalt
    rw [← haltRx_of_stopped ha]
    exact whenEnabled_taken hu ((rxMayExit_iff s).mpr ⟨hmay, hm, ha, hboundary, hwait⟩)
  · exact whenEnabled_notTaken hu (by simp [rxMayExit, atReadBoundary_inside hst hidx])
  · exact whenEnabled_notTaken hu (by simp [rxMayExit, hwait])
  · have hmay := txMayStep_of_threaded hm hu hs (by simp [hst])
    rw [Writer.runMove_tx hmay, writerStep_idle_stopped hm ha hst, haltTx_of_stopped ha]
  · have hmay := txMayStep_of_threaded hm hu hs (by simp [hst])
    rw [← haltTx_of_stopped ha]
    exact whenEnabled_taken hu ((txMayExit_iff s).mpr ⟨hmay, hm, ha, hst⟩)

end Sys2Proof.Loops
end

section
/-! SUPPORT. After a stop each loop has only so much work left before it halts (R188): every step RX takes brings it nearer to
the end of its attempt, and every answer but `ACCEPT(0)` brings TX nearer to the end of its frame. Fairness and the two premises
on XPT give those steps. The obligation BothLoopsHaltAfterStop. -/

namespace Sys2Proof.Liveness

open Sys2Proof.Machine Sys2Proof.Laws Sys2Proof.Wire Sys2Proof.Loops

variable {s t : State} {m : Move}

/-- A started THREADED block after `Stop()`, with nothing Unspecified. -/
structure Stopping (s : State) : Prop where
  inv : BlockInv s
  threaded : s.cfg.mode = .threaded
  started : s.started = true
  stopped : s.stopNotified = true
  noFault : s.ufault = none

theorem Stopping.dead (h : Stopping s) : s.alive = false := by
  obtain ⟨⟨-, hlive, -⟩, -⟩ := h.inv
  rw [← Bool.not_eq_true]
  intro ha
  exact nomatch h.stopped.symm.trans (hlive ha).2

theorem Stopping.rxMayStep (h : Stopping s) (hst : s.rxState ≠ .halt) : rxMayStep s = true :=
  rxMayStep_of_threaded h.threaded h.noFault h.started hst

theorem Stopping.txMayStep (h : Stopping s) (hst : s.txState ≠ .halt) : txMayStep s = true :=
  txMayStep_of_threaded h.threaded h.noFault h.started hst

/-- Only Unspecified behaviour takes a block out of these states. -/
theorem Stopping.runMove (h : Stopping s) (hrun : runMove m s = .next t) (hu : t.ufault = none) : Stopping t := by
  have hinv : BlockInv t := by
    obtain rfl | he := runMove_effect hrun
    · exact h.inv
    · exact Invariant.blockInv_of_effect h.inv he
  obtain ⟨hcfg, hstarted, hstopped, -⟩ := Scope.forward_of_runMove hrun
  exact ⟨hinv, by rw [hcfg, h.threaded], hstarted h.started, hstopped h.stopped, hu⟩

/-! ### RX's work -/

/-- How many steps of RX can come before its halt, once the block is stopped (R161: it exits at the next attempt's start). -/
def rxWork (s : State) : Nat :=
  match s.rxState with
  | .halt => 0
  | .sync1 => 1
  | .dispatch => 2
  | .csum => 3
  | .payload => 3 + (s.rxLen.toNat - s.rxIdx.toNat)
  | .len => 2 ^ 16 + (4 - s.rxIdx.toNat)
  | .cmd => 2 ^ 16 + 5
  | .sync2 => 2 ^ 16 + 6

theorem rxWork_eq_zero_iff : rxWork s = 0 ↔ s.rxState = .halt := by
  unfold rxWork
  cases s.rxState <;> simp

theorem rxWork_of_kept (h : RxKept s t) : rxWork t = rxWork s := by
  obtain ⟨hst, hidx, hlen, -⟩ := h
  rw [rxWork, rxWork, hst, hidx, hlen]

/-- Bytes do not go away while RX stands still, so that a wait that has ended stays ended. -/
theorem rxWaiting_of_kept (h : RxKept s t) (hw : rxWaiting s = false) : rxWaiting t = false := by
  obtain ⟨hst, -, -, hfifo⟩ := h
  rw [Bool.eq_false_iff, Ne, rxWaiting_iff] at hw ⊢
  rw [hst]
  rintro ⟨hempty, hrest⟩
  rw [hempty, List.prefix_nil] at hfifo
  exact hw ⟨hfifo, hrest⟩

/-- A pending byte takes RX further in its attempt (R122 to R136). -/
theorem rxWork_readByte (b : Byte) (rest : List Byte) (hb : BlockInv s) (hsync : s.rxState ≠ .sync1)
    (hd : s.rxState ≠ .dispatch) (hh : s.rxState ≠ .halt) : rxWork (readByte b rest s) < rxWork s := by
  obtain ⟨-, -, ⟨hlen, hpayload, -⟩, -⟩ := hb
  cases hst : s.rxState with
  | sync1 => exact absurd hst hsync
  | dispatch => exact absurd hst hd
  | halt => exact absurd hst hh
  | sync2 =>
    rw [Reader.readByte_sync2 b rest hst]
    split <;> simp [rxWork, hst]
  | cmd =>
    rw [Reader.readByte_cmd b rest hst]
    simp [rxWork, hst]
  | len =>
    obtain hidx | hidx := hlen hst
    · rw [Reader.readByte_lenLo b rest hst hidx]
      simp [rxWork, hst, hidx]
    · have hlt := (setLenHi s.rxLen b).isLt
      rw [Reader.readByte_lenHi b rest hst hidx]
      split
      · simp [rxWork, hst, hidx]
      · simp only [rxWork, hst, hidx, BitVec.toNat_ofNat]
        omega
  | payload =>
    have hlt : s.rxIdx < s.rxLen := hpayload hst
    have hnext : (s.rxIdx + 1#16).toNat = s.rxIdx.toNat + 1 := by bv_omega
    have hltNat : s.rxIdx.toNat < s.rxLen.toNat := hlt
    rw [Reader.readByte_payload b rest hst hlt]
    by_cases hlast : s.rxIdx + 1#16 = s.rxLen
    · simp only [rxWork, hst, if_pos hlast]
      omega
    · simp only [rxWork, hst, if_neg hlast, hnext]
      omega
  | csum =>
    rw [Reader.readByte_csum b rest hst]
    split <;> simp [rxWork, hst]

theorem rxWork_haltRx (hst : s.rxState ≠ .halt) : rxWork (haltRx s) < rxWork s := by
  rw [rxWork_eq_zero_iff.mpr (haltRx_rxState s)]
  exact Nat.pos_of_ne_zero (mt rxWork_eq_zero_iff.mp hst)

/-- RX waits, or reads on, or exits (R161). -/
theorem rxWork_readerStep (h : Stopping s) (hd : s.rxState ≠ .dispatch) (hh : s.rxState ≠ .halt) :
    readerStep s = s ∧ rxWaiting s = true ∨ rxWork (readerStep s) < rxWork s := by
  by_cases hsync : s.rxState = .sync1
  · rw [readerStep_boundary h.threaded h.dead hsync]
    exact .inr (rxWork_haltRx hh)
  obtain ⟨-, hr⟩ | ⟨-, hf, hr⟩ | ⟨b, rest, -, -, hr⟩ := readerStep_cases s <;> rw [hr]
  · exact .inr (rxWork_haltRx hh)
  · refine .inl ⟨?_, (rxWaiting_iff s).mpr ⟨hf, hsync, hd, hh⟩⟩
    unfold readNothing
    split
    next hst => exact absurd hst hsync
    all_goals rfl
  · exact .inr (rxWork_readByte b rest h.inv hsync hd hh)

/-- Without Unspecified behaviour a dispatch ends the attempt or the loop (R137, R162, R185). -/
theorem rxState_endDispatch {r : State × Ending} (hu : (endDispatch r).ufault = none) :
    (endDispatch r).rxState = .sync1 ∨ (endDispatch r).rxState = .halt := by
  obtain ⟨u, ending⟩ := r
  cases ending with
  | done => exact .inl (endAttempt_rxState u)
  | raised e =>
    unfold endDispatch takeRxException
    dsimp only
    split
    · exact .inr (haltRx_rxState _)
    · exact .inl (endAttempt_rxState u)
  | unspecified c =>
    rw [endDispatch, raiseUnspecified_ufault] at hu
    cases hu

/-- A step of RX that is no wait brings it nearer to its halt. -/
theorem rxWork_of_rxStep (h : Stopping s) (hu : t.ufault = none) (hstep : RxStep s t) :
    t = s ∧ rxWaiting s = true ∨ rxWork t < rxWork s := by
  obtain ⟨-, hh, -⟩ := (rxMayStep_iff s).mp hstep.mayStep
  cases hstep with
  | dispatch r hd =>
    obtain ⟨-, hst⟩ := (rxAtDispatch_iff s).mp hd
    obtain hend | hend := rxState_endDispatch hu <;> exact .inr (by simp [rxWork, hst, hend])
  | read _ hd => exact rxWork_readerStep h hd hh
  | fail x =>
    refine .inr ?_
    have hend : rxWork (takeRxException x s) = 0 := by
      rw [takeRxException_threaded x h.threaded]
      exact rxWork_eq_zero_iff.mpr (haltRx_rxState _)
    rw [hend]
    exact Nat.pos_of_ne_zero (mt rxWork_eq_zero_iff.mp hh)
  | exit => exact .inr (rxWork_haltRx hh)

theorem rxKept_or_rxWork_lt (h : Stopping s) (hrun : runMove m s = .next t) (hu : t.ufault = none) :
    RxKept s t ∨ rxWork t < rxWork s := by
  obtain rfl | he := runMove_effect hrun
  · exact .inl (.refl t)
  obtain hstep | hkept := rxStep_or_kept h.stopped he
  · obtain ⟨rfl, -⟩ | hlt := rxWork_of_rxStep h hu hstep
    · exact .inl (.refl t)
    · exact .inr hlt
  · exact .inl hkept

/-- A frame's instruction is RX's dispatch step (R137). -/
theorem exec_frame {i : Instr} (hi : i.isPort = false) (s : State) : ∃ r, exec i s = dispatchStep s r := by
  cases i
  case unknown00 | timeSync | logDebug | logInfo | logWarn | logError | unknown0607 | paramReq | unknown09 | unknown0A0B
      | unknown0C0F | publish101F | publish203F | publish407F | publish80FF => exact ⟨_, rfl⟩
  all_goals cases hi

/-- What counts as RX taking a step is a step of RX. -/
theorem rxStep_of_takes (h : Stopping s) (hh : s.rxState ≠ .halt) (htakes : RxTakes s m)
    (hrun : runMove m s = .next t) : RxStep s t := by
  have hmay := h.rxMayStep hh
  obtain rfl | ⟨rfl, hexit⟩ | ⟨a, rfl, hcalled⟩ := htakes
  · by_cases hd : s.rxState = .dispatch
    · have hat : rxAtDispatch s = true := (rxAtDispatch_iff s).mpr ⟨hmay, hd⟩
      obtain ⟨r, hr⟩ := exec_frame (Scope.instrOf_isPort s.rxCmd (rxPayload s)) s
      rw [Refinement.runMove_rx_dispatch hd, hr, dispatchStep, whenEnabled_taken h.noFault hat] at hrun
      cases hrun
      exact .dispatch r hat
    · rw [Reader.runMove_rx_of_ne_dispatch hmay hd] at hrun
      cases hrun
      exact .read hmay hd
  · rw [Machine.runMove, rxExitMove, whenEnabled_taken h.noFault hexit] at hrun
    cases hrun
    exact .exit hexit
  · have hexec : Machine.runMove (.input (.delSystimeAnswer a)) s = _ := whenEnabled_taken h.noFault hcalled
    rw [hexec] at hrun
    cases hrun
    exact .dispatch _ (sysTimeCalled_cases hcalled).1

theorem rxWork_lt_of_takes (h : Stopping s) (hh : s.rxState ≠ .halt) (hw : rxWaiting s = false) (htakes : RxTakes s m)
    (hrun : runMove m s = .next t) (hu : t.ufault = none) : rxWork t < rxWork s := by
  obtain ⟨-, hwaiting⟩ | hlt := rxWork_of_rxStep h hu (rxStep_of_takes h hh htakes hrun)
  · exact nomatch hw.symm.trans hwaiting
  · exact hlt

/-! ### TX's work -/

/-- How much TX can do before its halt, once the block is stopped: it exits when idle and at the end of its pause (R171, R175). -/
def txWork (s : State) : Nat :=
  match s.txState with
  | .halt => 0
  | .idle | .pause => 1
  | .busy => 2 + txRemaining s

theorem txWork_eq_zero_iff : txWork s = 0 ↔ s.txState = .halt := by
  unfold txWork
  cases s.txState <;> simp

theorem txWork_of_txRegs (h : txRegs t = txRegs s) : txWork t = txWork s := by
  obtain ⟨hst, hcur, hoff, -⟩ : t.txState = s.txState ∧ t.txCur = s.txCur ∧ t.txOff = s.txOff ∧ t.txWire = s.txWire := by
    simpa [txRegs] using h
  rw [txWork, txWork, txRemaining, txRemaining, hst, hcur, hoff]

theorem two_le_txWork_iff : 2 ≤ txWork s ↔ s.txState = .busy := by
  unfold txWork
  cases s.txState <;> simp

theorem txWork_haltTx (hst : s.txState ≠ .halt) : txWork (haltTx s) < txWork s := by
  rw [txWork_eq_zero_iff.mpr (haltTx_txState s)]
  exact Nat.pos_of_ne_zero (mt txWork_eq_zero_iff.mp hst)

theorem txWork_lt_of_leaves_busy (hs : s.txState = .busy) (ht : t.txState ≠ .busy) : txWork t < txWork s := by
  have hmany := two_le_txWork_iff.mpr hs
  have hfew := mt two_le_txWork_iff.mp ht
  omega

/-- An idle TX and a TX at the end of its pause halt (R171, R175). -/
theorem txWork_writerStep (h : Stopping s) (hh : s.txState ≠ .halt) (hb : s.txState ≠ .busy) :
    txWork (writerStep s) < txWork s := by
  cases hst : s.txState with
  | halt => exact absurd hst hh
  | busy => exact absurd hst hb
  | idle =>
    rw [writerStep_idle_stopped h.threaded h.dead hst]
    exact txWork_haltTx hh
  | pause =>
    rw [Writer.writerStep_pause h.threaded hst, if_pos h.dead]
    exact txWork_haltTx hh

/-- A write timeout pauses TX, whatever becomes of the remainder (R174). -/
theorem txState_txTimedOut (hm : s.cfg.mode = .threaded) : (txTimedOut s).txState = .pause := by
  cases hp : s.cfg.wrTimeoutPolicy with
  | retryRemainder => rw [Writer.txTimedOut_retry hm hp]
  | dropRemainder =>
    obtain ⟨cur, off, d, hdrop⟩ := Writer.exists_txTimedOut_drop hm hp
    rw [hdrop]

/-- `ACCEPT(0)` leaves TX where it was (R173). -/
theorem txWork_accept_zero (hw : txWriting s = true) : txWork (txAnswered (.accept 0) s) = txWork s := by
  obtain ⟨-, -, hlt⟩ := (txWriting_iff s).mp hw
  rw [txAnswered, Writer.txAccepted_of_partial hlt]
  rfl

/-- Every other answer takes TX further in its frame, or out of it (R173, R174, R176). -/
theorem txWork_txAnswered (h : Stopping s) {a : WriteAnswer} (hw : txWriting s = true)
    (hfit : answerFits a (txRemaining s) = true) (ha : a ≠ .accept 0) : txWork (txAnswered a s) < txWork s := by
  obtain ⟨-, hst, -⟩ := (txWriting_iff s).mp hw
  cases a with
  | accept k =>
    have hk : k ≤ s.txCur.length - s.txOff := of_decide_eq_true hfit
    have hpos : k ≠ 0 := fun hzero => ha (by rw [hzero])
    rw [txAnswered]
    by_cases hall : s.txOff + k = s.txCur.length
    · rw [Writer.txAccepted_of_complete hall]
      exact txWork_lt_of_leaves_busy hst (by simp)
    · rw [Writer.txAccepted_of_partial (by omega)]
      simp only [txWork, txRemaining, txAccept_txState, txAccept_txCur, txAccept_txOff, hst]
      omega
  | timeout k =>
    have hpause : (txAnswered (.timeout k) s).txState = .pause := txState_txTimedOut (s := txAccept k s) h.threaded
    exact txWork_lt_of_leaves_busy hst (by simp [hpause])
  | fault k =>
    rw [txAnswered, Writer.txFaulted_threaded (s := txAccept k s) h.threaded]
    exact txWork_lt_of_leaves_busy hst (by simp)

/-- No step gives a stopped TX more to do: it dequeues nothing (R171). -/
theorem txWork_le_of_runMove (h : Stopping s) (hrun : runMove m s = .next t) : txWork t ≤ txWork s := by
  obtain rfl | he := runMove_effect hrun
  · exact le_rfl
  obtain hstep | hkept := txStep_or_kept h.inv he
  · obtain ⟨-, hh, -⟩ := (txMayStep_iff s).mp hstep.mayStep
    cases hstep with
    | own =>
      by_cases hb : s.txState = .busy
      · rw [writerStep, hb]
      · exact (txWork_writerStep h hh hb).le
    | write a hw hfit =>
      by_cases ha : a = .accept 0
      · rw [ha, txWork_accept_zero hw]
      · exact (txWork_txAnswered h hw hfit ha).le
    | exit => exact (txWork_haltTx hh).le
  · exact (txWork_of_txRegs hkept).le

theorem txWork_lt_of_write (h : Stopping s) {a : WriteAnswer} (htakes : WriteTakes s m a) (ha : a ≠ .accept 0)
    (hrun : runMove m s = .next t) : txWork t < txWork s := by
  obtain ⟨rfl, hw, hfit⟩ := htakes
  have hexec : runMove (.input (.xptWriteAnswer a)) s = _ := Writer.exec_write hw hfit
  rw [hexec] at hrun
  cases hrun
  exact txWork_txAnswered h hw hfit ha

/-- Outside `T_BUSY` the only step that TX takes is its own. -/
theorem txWork_lt_of_takes (h : Stopping s) (hh : s.txState ≠ .halt) (hb : s.txState ≠ .busy) (htakes : TxTakes s m)
    (hrun : runMove m s = .next t) : txWork t < txWork s := by
  obtain ⟨rfl, -⟩ | ⟨-, hexit⟩ | ⟨a, -, hw, -⟩ := htakes
  · rw [Writer.runMove_tx (h.txMayStep hh)] at hrun
    cases hrun
    exact txWork_writerStep h hh hb
  · obtain ⟨-, -, -, hst⟩ := (txMayExit_iff s).mp hexit
    exact absurd hst hb
  · obtain ⟨-, hst, -⟩ := (txWriting_iff s).mp hw
    exact absurd hst hb

/-- A frame in progress has bytes left to write. -/
theorem Stopping.txWriting (h : Stopping s) (hst : s.txState = .busy) : txWriting s = true := by
  obtain ⟨-, -, ⟨-, -, hbusy, -⟩, -⟩ := h.inv
  exact (txWriting_iff s).mpr ⟨h.txMayStep (by simp [hst]), hst, hbusy hst⟩

/-! ### Fair runs -/

/-- Work that never grows, and shrinks again and again while there is some, comes to an end for good. -/
theorem exists_forall_eq_zero_of_drops {f : Nat → Nat} (hle : ∀ n, f (n + 1) ≤ f n)
    (hdrop : ∀ n, f n ≠ 0 → ∃ m, n ≤ m ∧ f (m + 1) < f m) : ∃ n, ∀ m, n ≤ m → f m = 0 := by
  have hanti : Antitone f := antitone_nat_of_succ_le hle
  have hzero : f (Function.argmin f) = 0 := by
    by_contra hne
    obtain ⟨m, hm, hlt⟩ := hdrop _ hne
    have hmin : f (Function.argmin f) ≤ f (m + 1) := Function.argmin_le f (m + 1)
    exact absurd (hlt.trans_le (hanti hm)) hmin.not_gt
  exact ⟨Function.argmin f, fun m hm => Nat.le_zero.mp (hzero ▸ hanti hm)⟩

section FairRun

variable {σ : Nat → Move} {r : Nat → State}

theorem stopping_of_isRun (hrun : IsRun σ r) (h0 : Stopping (r 0)) (hu : ∀ n, (r n).ufault = none) (n : Nat) :
    Stopping (r n) := by
  induction n with
  | zero => exact h0
  | succ n ih => exact ih.runMove (hrun n) (hu (n + 1))

/-- RX that stands still forever would wait forever or be treated unfairly. -/
theorem exists_rxWork_drop (hrun : IsRun σ r) (hstop : ∀ n, Stopping (r n)) (hfair : WeaklyFair rxHasStep RxTakes σ r)
    (hwaits : WaitsEnd r) (n : Nat) (hn : rxWork (r n) ≠ 0) : ∃ m, n ≤ m ∧ rxWork (r (m + 1)) < rxWork (r m) := by
  by_contra hno
  have hstill : ∀ m, n ≤ m → ¬ rxWork (r (m + 1)) < rxWork (r m) := fun m hm hlt => hno ⟨m, hm, hlt⟩
  have hkept : ∀ m, n ≤ m → RxKept (r m) (r (m + 1)) := fun m hm =>
    (rxKept_or_rxWork_lt (hstop m) (hrun m) (hstop (m + 1)).noFault).resolve_right (hstill m hm)
  have hlive : ∀ m, n ≤ m → (r m).rxState ≠ .halt := fun m hm => by
    refine mt rxWork_eq_zero_iff.mpr ?_
    induction m, hm using Nat.le_induction with
    | base => exact hn
    | succ m hm ih => rwa [rxWork_of_kept (hkept m hm)]
  obtain ⟨k, hk, hawake⟩ : ∃ k, n ≤ k ∧ rxWaiting (r k) = false := by
    cases hw : rxWaiting (r n) with
    | false => exact ⟨n, le_rfl, hw⟩
    | true => exact hwaits n hw
  have hstaysAwake : ∀ m, k ≤ m → rxWaiting (r m) = false := fun m hm => by
    induction m, hm using Nat.le_induction with
    | base => exact hawake
    | succ m hm ih => exact rxWaiting_of_kept (hkept m (hk.trans hm)) ih
  obtain ⟨m, hm, htakes⟩ := hfair k fun m hm => by
    rw [rxHasStep, (hstop m).rxMayStep (hlive m (hk.trans hm)), hstaysAwake m hm]
    rfl
  have hnm := hk.trans hm
  exact hstill m hnm
    (rxWork_lt_of_takes (hstop m) (hlive m hnm) (hstaysAwake m hm) htakes (hrun m) (hstop (m + 1)).noFault)

/-- TX that stands still forever would be answered `ACCEPT(0)` forever or be treated unfairly. -/
theorem exists_txWork_drop (hrun : IsRun σ r) (hstop : ∀ n, Stopping (r n)) (hfair : WeaklyFair txHasStep TxTakes σ r)
    (hwrites : WritesProgress σ r) (n : Nat) (hn : txWork (r n) ≠ 0) :
    ∃ m, n ≤ m ∧ txWork (r (m + 1)) < txWork (r m) := by
  by_contra hno
  have hstill : ∀ m, n ≤ m → ¬ txWork (r (m + 1)) < txWork (r m) := fun m hm hlt => hno ⟨m, hm, hlt⟩
  have hsame : ∀ m, n ≤ m → txWork (r m) = txWork (r n) := fun m hm => by
    induction m, hm using Nat.le_induction with
    | base => rfl
    | succ m hm ih =>
      have hle := txWork_le_of_runMove (hstop m) (hrun m)
      have hge := hstill m hm
      omega
  by_cases hb : (r n).txState = .busy
  · have hbusy : ∀ m, n ≤ m → txWriting (r m) = true := fun m hm =>
      (hstop m).txWriting (two_le_txWork_iff.mp (by rw [hsame m hm]; exact two_le_txWork_iff.mpr hb))
    obtain ⟨m, hm, a, htakes, ha⟩ := hwrites n hbusy
    exact hstill m hm (txWork_lt_of_write (hstop m) htakes ha (hrun m))
  · have hnotBusy : ∀ m, n ≤ m → (r m).txState ≠ .busy := fun m hm => by
      rwa [Ne, ← two_le_txWork_iff, hsame m hm, two_le_txWork_iff]
    have hlive : ∀ m, n ≤ m → (r m).txState ≠ .halt := fun m hm => by
      rwa [Ne, ← txWork_eq_zero_iff, hsame m hm]
    obtain ⟨m, hm, htakes⟩ := hfair n fun m hm => by
      simp [txHasStep, (hstop m).txMayStep (hlive m hm), hnotBusy m hm]
    exact hstill m hm (txWork_lt_of_takes (hstop m) (hlive m hm) (hnotBusy m hm) htakes (hrun m))

theorem rxWork_le_of_run (hrun : IsRun σ r) (hstop : ∀ n, Stopping (r n)) (n : Nat) :
    rxWork (r (n + 1)) ≤ rxWork (r n) := by
  obtain hkept | hlt := rxKept_or_rxWork_lt (hstop n) (hrun n) (hstop (n + 1)).noFault
  · exact (rxWork_of_kept hkept).le
  · exact hlt.le

theorem txWork_le_of_run (hrun : IsRun σ r) (hstop : ∀ n, Stopping (r n)) (n : Nat) :
    txWork (r (n + 1)) ≤ txWork (r n) :=
  txWork_le_of_runMove (hstop n) (hrun n)

end FairRun

/-- Settles O56: each loop's work comes to an end, and it does not come back. -/
theorem bothLoopsHaltAfterStop : Obligations.BothLoopsHaltAfterStop := by
  intro σ r hrun hinv hmode hstarted hstopped hu ⟨hfairRx, hfairTx⟩ hwaits hwrites
  have hstop := stopping_of_isRun hrun ⟨hinv, hmode, hstarted, hstopped, hu 0⟩ hu
  obtain ⟨i, hrx⟩ :=
    exists_forall_eq_zero_of_drops (rxWork_le_of_run hrun hstop) (exists_rxWork_drop hrun hstop hfairRx hwaits)
  obtain ⟨j, htx⟩ :=
    exists_forall_eq_zero_of_drops (txWork_le_of_run hrun hstop) (exists_txWork_drop hrun hstop hfairTx hwrites)
  exact ⟨max i j, rxWork_eq_zero_iff.mp (hrx _ (le_max_left i j)), txWork_eq_zero_iff.mp (htx _ (le_max_right i j))⟩

end Sys2Proof.Liveness
end

section
/-! SUPPORT. What a dispatched frame leaves behind (R137, R200), each command as one update, and DEL's answers to the calls it
makes (R203, R222). The obligations UnknownCommandResult, PublishResult, LogResult, ParamRequestResult, TimeSyncResult,
SysTimeAnswerResult and ParamResultReply. -/

namespace Sys2Proof.Dispatch

open Sys2Proof.Machine Sys2Proof.Laws

variable {s t : State} {p : List Byte}

/-- RX is at `R_DISPATCH` only while nothing is Unspecified (R160). -/
theorem ufault_of_rxAtDispatch (hat : rxAtDispatch s = true) : s.ufault = none := by
  obtain ⟨hmay, -⟩ := (rxAtDispatch_iff s).mp hat
  obtain ⟨hu, -⟩ := (rxMayStep_iff s).mp hmay
  exact hu

/-- At `R_DISPATCH` a frame's actions are made and the attempt ends. -/
theorem dispatchStep_taken {r : State × Ending} (hat : rxAtDispatch s = true) : dispatchStep s r = .next (endDispatch r) :=
  whenEnabled_taken (ufault_of_rxAtDispatch hat) hat

/-! ### Reserved commands -/

theorem exec_unknown {i : Instr} {c : Byte} (hframe : i.frame = some (c, p)) (hclass : i.commandClass = some .unknown) :
    exec i s = dispatchStep s (unknownActions c p s) := by
  cases i with
  | unknown00 | unknown0607 | unknown09 | unknown0A0B | unknown0C0F => cases hframe; rfl
  | _ => cases hclass

/-- Settles O30: the actions of an unknown command are the diagnostic, and they end the attempt. -/
theorem unknownCommandResult : Obligations.UnknownCommandResult := by
  intro i c p s hframe hclass hat
  rw [exec_unknown hframe hclass, dispatchStep_taken hat]
  exact congrArg _ (endAttempt_eq (diag _ s))

/-! ### Delegate calls -/

/-- The call `e` was made as an event and answered, and the command has done nothing since; `d` are the draws left. -/
def madeCall (e : DelCall) (d : Draws) (s : State) : State := { s with events := s.events ++ [.del e], draws := d }

theorem useCall_emit_del (e : DelCall) (s : State) : useCall (emit (.del e) s) = madeCall e (useCall s).draws s := by
  rw [useCall_eq, useCall_draws_of_draws (s := emit (.del e) s) (t := s) rfl]
  rfl

theorem useSysTime_emit_del (e : DelCall) (s : State) :
    useSysTime (emit (.del e) s) = madeCall e (useSysTime s).draws s := by
  rw [useSysTime_eq, useSysTime_draws_of_draws (s := emit (.del e) s) (t := s) rfl]
  rfl

/-- An accepted call that was a command's last action ends the attempt (R137). -/
theorem endDispatch_madeCall (e : DelCall) (d : Draws) (s : State) :
    endDispatch (madeCall e d s, .done) = afterCall e d s :=
  endAttempt_eq (madeCall e d s)

/-- A failed call is the exception `RxOther` of the mode (R162, R185, R200). -/
theorem endDispatch_madeCall_raised (e : DelCall) (d : Draws) (s : State) :
    endDispatch (madeCall e d s, .raised e) = afterFailedCall e d s := by
  have htaken : endDispatch (madeCall e d s, .raised e) = takeRxException (.other e) (madeCall e d s) := rfl
  rw [htaken, afterFailedCall]
  cases hm : s.cfg.mode with
  | threaded =>
    rw [takeRxException_threaded _ (s := madeCall e d s) hm, haltRx_eq]
    simp [exceptionDiag, diag, emit, madeCall, stopEvents]
  | singleStep => exact takeRxException_singleStep _ (s := madeCall e d s) hm

/-- A frame whose last action is a Delegate call, made in the state `t` that the actions before it led to. -/
theorem dispatchStep_callDelegate (e : DelCall) (hat : rxAtDispatch s = true) (hdraws : t.draws = s.draws) :
    (nextCall s = .ok → dispatchStep s (callDelegate e t) = .next (afterCall e (useCall s).draws t)) ∧
    (nextCall s = .error → dispatchStep s (callDelegate e t) = .next (afterFailedCall e (useCall s).draws t)) := by
  rw [dispatchStep_taken hat, callDelegate, useCall_emit_del, nextCall_of_draws hdraws, useCall_draws_of_draws hdraws]
  constructor <;> intro h <;> rw [h]
  · rw [endDispatch_madeCall]
  · rw [endDispatch_madeCall_raised]

theorem exec_publish {i : Instr} {c : Byte} (hframe : i.frame = some (c, p)) (hclass : i.commandClass = some .publish) :
    exec i s = dispatchStep s (callDelegate (.publish c p) s) := by
  cases i with
  | publish101F | publish203F | publish407F | publish80FF => cases hframe; rfl
  | _ => cases hclass

/-- Settles O31: publishing is one Delegate call. -/
theorem publishResult : Obligations.PublishResult := by
  intro i c p s hframe hclass hat
  rw [exec_publish hframe hclass]
  exact dispatchStep_callDelegate _ hat rfl

theorem logActions_of_utf8 (l : LogLevel) (h : utf8 p = true) : logActions l p s = callDelegate (.log l p) s := if_pos h

/-- Settles O32: the four commands differ in the level, and well-formed text makes one Delegate call. -/
theorem logResult : Obligations.LogResult := by
  intro i l p s hi hat htext
  have hexec : exec i s = dispatchStep s (logActions l p s) := by
    simp only [List.mem_cons, Prod.mk.injEq, List.not_mem_nil, or_false] at hi
    obtain ⟨rfl, rfl⟩ | ⟨rfl, rfl⟩ | ⟨rfl, rfl⟩ | ⟨rfl, rfl⟩ := hi <;> rfl
  rw [hexec, logActions_of_utf8 l htext]
  exact dispatchStep_callDelegate _ hat rfl

theorem paramActions_of_utf8 (h : utf8 p = true) :
    paramActions p s = callDelegate (.getParam s.paramIssued p) (countParam s) := if_pos h

/-- Settles O33: the call is made in the state that has counted the request, with the count before it. -/
theorem paramRequestResult : Obligations.ParamRequestResult := by
  intro p s hat htext
  have hexec : exec (.paramReq p) s = dispatchStep s (paramActions p s) := rfl
  rw [hexec, paramActions_of_utf8 htext]
  exact dispatchStep_callDelegate (t := countParam s) _ hat rfl

/-! ### Time sync -/

theorem timeSyncActions_of_length (h : p.length = 8) (s : State) :
    timeSyncActions p s = timeSyncAnswered p (nextSysTime s) (madeCall .sysTime (useSysTime s).draws s) := by
  rw [timeSyncActions, if_neg (not_not_intro h), useSysTime_emit_del]

/-- The reply, `time_synced` and the offset, all from the one sample the call was answered with (R204 to R206). -/
theorem endDispatch_timeSyncAnswered (p : List Byte) (hs hn : Word) (d : Draws) (s : State) :
    endDispatch (timeSyncAnswered p (.time hs hn) (madeCall .sysTime d s)) = { s with
      events := s.events ++ [.del .sysTime, .diag (.timeOffset (diffMs s.cfg.timeSigned hs hn (wordAt p 0) (wordAt p 4)))]
      queue := s.queue ++ [encodeTx s.cfg.txLenBytes 0x01#8 (le32bytes hs ++ le32bytes hn)]
      timeSynced := true, rxState := .sync1, ssPhase := phaseAfterAttempt s, draws := d } := by
  refine (endAttempt_eq _).trans ?_
  simp [timeSyncAnswered, diag, emit, setTimeSynced, sendFrame, enqueue, madeCall, timeReply, phaseAfterAttempt]

/-- R12's reading of a time word is the model's. -/
theorem timeVal_eq_wordValue (signed : Bool) (w : Word) : timeVal signed w = wordValue signed w := by
  have hlt := w.isLt
  cases signed with
  | false => simp [timeVal, wordValue]
  | true =>
    simp only [timeVal, wordValue, BitVec.toInt_eq_toNat_cond, if_true, true_and]
    split_ifs <;> omega

/-- The exact offset in milliseconds, as R206 writes it. -/
theorem diffMs_eq (signed : Bool) (hs hn ps pn : Word) :
    diffMs signed hs hn ps pn
      = ((wordValue signed hs - wordValue signed ps : Int) : Rat) * 1000
        + ((wordValue signed hn - wordValue signed pn : Int) : Rat) / 10 ^ 6 := by
  rw [diffMs, Rat.mkRat_eq_div]
  simp only [timeVal_eq_wordValue]
  push_cast
  ring

/-- Settles O34: by the payload's length, then by the answer to `SYSTIME`. -/
theorem timeSyncResult : Obligations.TimeSyncResult := by
  have hexec (p : List Byte) {s : State} (hat : rxAtDispatch s = true) :
      exec (.timeSync p) s = .next (endDispatch (timeSyncActions p s)) := dispatchStep_taken hat
  refine ⟨fun p s hat hlen => ?_, fun b0 b1 b2 b3 b4 b5 b6 b7 s hat => ?_⟩
  · rw [hexec p hat, timeSyncActions, if_pos hlen]
    exact congrArg _ (raiseUnspecified_eq .syncLen (ufault_of_rxAtDispatch hat))
  · rw [hexec _ hat, timeSyncActions_of_length rfl]
    refine ⟨fun hs hn hanswer => ⟨_, diffMs_eq s.cfg.timeSigned hs hn _ _, ?_⟩, fun hanswer => ?_⟩
    · rw [hanswer, endDispatch_timeSyncAnswered]
      rfl
    · rw [hanswer, timeSyncAnswered, endDispatch_madeCall_raised]

/-- Settles O35: the offered answer is the one the dispatch step uses, and the draws are then as they were. -/
theorem sysTimeAnswerResult : Obligations.SysTimeAnswerResult := by
  intro s hcalled
  obtain ⟨hat, -, hlen⟩ := sysTimeCalled_cases hcalled
  have hexec (a : SysTimeAnswer) : exec (.delSystimeAnswer a) s
      = .next (endDispatch (timeSyncAnswered (rxPayload s) a (madeCall .sysTime s.draws s))) := by
    refine (whenEnabled_taken (ufault_of_rxAtDispatch hat) hcalled).trans ?_
    rw [timeSyncActions_of_length hlen]
    rfl
  exact ⟨fun hs hn => by rw [hexec, endDispatch_timeSyncAnswered],
    by rw [hexec, timeSyncAnswered, endDispatch_madeCall_raised]⟩

/-! ### Parameter results -/

theorem wordsBytes_eq_flatMap (ws : List Word) : wordsBytes ws = ws.flatMap le32bytes := by
  induction ws with
  | nil => rfl
  | cons w ws ih => rw [wordsBytes, ih, List.flatMap_cons]

/-- Settles O36: an issued request's result is enabled in every state, and it enqueues one frame. -/
theorem paramResultReply : Obligations.ParamResultReply := by
  intro k values s hu hk
  rw [← wordsBytes_eq_flatMap]
  exact whenEnabled_taken hu (decide_eq_true hk)

end Sys2Proof.Dispatch
end

section
/-! SUPPORT. The text check is UTF-8 as the library encodes it (R210, log 17): the bytes that pass as one character are the bytes
of one character, and a text is one character after another. The obligation TextCheckIsUtf8. -/

namespace Sys2Proof.Text

open Sys2Proof.Machine

/-- The bytes of one character, by the library's own encoder. -/
def charBytes (c : Char) : List Byte := (String.utf8EncodeChar c).map UInt8.toBitVec

theorem textBytes_cons (c : Char) (cs : List Char) : textBytes (c :: cs) = charBytes c ++ textBytes cs := rfl

/-- The four forms of RFC 3629, each as the text check tests it. -/
def utf8Char : List Byte → Bool
  | [b0] => byteIn 0x00#8 0x7F#8 b0
  | [b0, b1] => byteIn 0xC2#8 0xDF#8 b0 && utf8Tail b1
  | [b0, b1, b2] => byteIn 0xE0#8 0xEF#8 b0 && utf8Second3 b0 b1 && utf8Tail b2
  | [b0, b1, b2, b3] => byteIn 0xF0#8 0xF4#8 b0 && utf8Second4 b0 b1 && utf8Tail b2 && utf8Tail b3
  | _ => false

/-! ### The tests as bounds on numbers -/

theorem byteIn_iff (lo hi b : Byte) : byteIn lo hi b = true ↔ lo.toNat ≤ b.toNat ∧ b.toNat ≤ hi.toNat := by
  simp [byteIn, BitVec.le_def]

theorem utf8Tail_iff (b : Byte) : utf8Tail b = true ↔ 0x80 ≤ b.toNat ∧ b.toNat ≤ 0xBF := byteIn_iff _ _ b

/-- After `E0` the shortest form is required, after `ED` a surrogate is shut out. -/
theorem utf8Second3_iff (b0 b1 : Byte) : utf8Second3 b0 b1 = true ↔
    (0x80 ≤ b1.toNat ∧ b1.toNat ≤ 0xBF) ∧ (b0.toNat = 0xE0 → 0xA0 ≤ b1.toNat) ∧ (b0.toNat = 0xED → b1.toNat ≤ 0x9F) := by
  unfold utf8Second3
  split_ifs <;> simp_all [byteIn_iff, utf8Tail_iff, ← BitVec.toNat_inj] <;> omega

/-- After `F0` the shortest form is required, after `F4` the value stays up to U+10FFFF. -/
theorem utf8Second4_iff (b0 b1 : Byte) : utf8Second4 b0 b1 = true ↔
    (0x80 ≤ b1.toNat ∧ b1.toNat ≤ 0xBF) ∧ (b0.toNat = 0xF0 → 0x90 ≤ b1.toNat) ∧ (b0.toNat = 0xF4 → b1.toNat ≤ 0x8F) := by
  unfold utf8Second4
  split_ifs <;> simp_all [byteIn_iff, utf8Tail_iff, ← BitVec.toNat_inj] <;> omega

/-! ### One character -/

theorem charBytes_eq (c : Char) : charBytes c =
    if c.toNat ≤ 0x7F then [BitVec.ofNat 8 c.toNat]
    else if c.toNat ≤ 0x7FF then [BitVec.ofNat 8 (c.toNat / 64 % 32 + 192), BitVec.ofNat 8 (c.toNat % 64 + 128)]
    else if c.toNat ≤ 0xFFFF then
      [BitVec.ofNat 8 (c.toNat / 4096 % 16 + 224), BitVec.ofNat 8 (c.toNat / 64 % 64 + 128),
        BitVec.ofNat 8 (c.toNat % 64 + 128)]
    else
      [BitVec.ofNat 8 (c.toNat / 262144 % 8 + 240), BitVec.ofNat 8 (c.toNat / 4096 % 64 + 128),
        BitVec.ofNat 8 (c.toNat / 64 % 64 + 128), BitVec.ofNat 8 (c.toNat % 64 + 128)] := by
  simp only [charBytes, String.utf8EncodeChar, apply_ite (List.map UInt8.toBitVec)]
  rfl

theorem exists_char_toNat {n : Nat} (h : n < 0xD800 ∨ 0xDFFF < n ∧ n < 0x110000) : ∃ c : Char, c.toNat = n :=
  ⟨Char.ofNatAux n h, rfl⟩

/-- What the library encodes is one of the four forms: a character is no surrogate and at most U+10FFFF. -/
theorem utf8Char_charBytes (c : Char) : utf8Char (charBytes c) = true := by
  have hvalid : c.toNat < 0xD800 ∨ 0xDFFF < c.toNat ∧ c.toNat < 0x110000 := c.valid
  rw [charBytes_eq]
  split_ifs <;>
    simp only [utf8Char, Bool.and_eq_true, byteIn_iff, utf8Tail_iff, utf8Second3_iff, utf8Second4_iff, BitVec.toNat_ofNat] <;>
    omega

/-- Bytes of one of the four forms are the encoding of the number they hold. -/
theorem exists_char_of_utf8Char {q : List Byte} (h : utf8Char q = true) : ∃ c, q = charBytes c := by
  match q with
  | [b0] =>
    simp only [utf8Char, byteIn_iff, BitVec.toNat_ofNat] at h
    obtain ⟨c, hc⟩ := exists_char_toNat (n := b0.toNat) (by omega)
    refine ⟨c, ?_⟩
    rw [charBytes_eq, hc, if_pos (by omega)]
    simp
  | [b0, b1] =>
    simp only [utf8Char, Bool.and_eq_true, byteIn_iff, utf8Tail_iff, BitVec.toNat_ofNat] at h
    obtain ⟨c, hc⟩ := exists_char_toNat (n := (b0.toNat - 192) * 64 + (b1.toNat - 128)) (by omega)
    refine ⟨c, ?_⟩
    rw [charBytes_eq, hc, if_neg (by omega), if_pos (by omega)]
    simp only [List.cons.injEq, and_true, ← BitVec.toNat_inj, BitVec.toNat_ofNat]
    omega
  | [b0, b1, b2] =>
    simp only [utf8Char, Bool.and_eq_true, byteIn_iff, utf8Second3_iff, utf8Tail_iff, BitVec.toNat_ofNat] at h
    obtain ⟨c, hc⟩ := exists_char_toNat
      (n := (b0.toNat - 224) * 4096 + (b1.toNat - 128) * 64 + (b2.toNat - 128)) (by omega)
    refine ⟨c, ?_⟩
    rw [charBytes_eq, hc, if_neg (by omega), if_neg (by omega), if_pos (by omega)]
    simp only [List.cons.injEq, and_true, ← BitVec.toNat_inj, BitVec.toNat_ofNat]
    omega
  | [b0, b1, b2, b3] =>
    simp only [utf8Char, Bool.and_eq_true, byteIn_iff, utf8Second4_iff, utf8Tail_iff, BitVec.toNat_ofNat] at h
    obtain ⟨c, hc⟩ := exists_char_toNat
      (n := (b0.toNat - 240) * 262144 + (b1.toNat - 128) * 4096 + (b2.toNat - 128) * 64 + (b3.toNat - 128))
      (by omega)
    refine ⟨c, ?_⟩
    rw [charBytes_eq, hc, if_neg (by omega), if_neg (by omega), if_neg (by omega)]
    simp only [List.cons.injEq, and_true, ← BitVec.toNat_inj, BitVec.toNat_ofNat]
    omega

/-! ### One character after another -/

theorem byteIn_eq_false_of_below {lo hi lo' hi' b : Byte} (h : byteIn lo' hi' b = true) (hlt : hi < lo') :
    byteIn lo hi b = false := by
  rw [Bool.eq_false_iff, Ne, byteIn_iff]
  rw [byteIn_iff] at h
  rw [BitVec.lt_def] at hlt
  omega

/-! The lead byte decides the form: the check reads the bytes of one form, then the rest. -/

theorem utf8_of_lead_one {b0 : Byte} (h : byteIn 0x00#8 0x7F#8 b0 = true) (p : List Byte) :
    utf8 (b0 :: p) = (utf8Char [b0] && utf8 p) := by
  rw [utf8.eq_def]
  simp [utf8Char, h]

theorem utf8_of_lead_two {b0 : Byte} (h : byteIn 0xC2#8 0xDF#8 b0 = true) (b1 : Byte) (p : List Byte) :
    utf8 (b0 :: b1 :: p) = (utf8Char [b0, b1] && utf8 p) := by
  rw [utf8.eq_def]
  simp [utf8Char, h, byteIn_eq_false_of_below (lo := 0x00#8) (hi := 0x7F#8) h (by decide)]

theorem utf8_of_lead_three {b0 : Byte} (h : byteIn 0xE0#8 0xEF#8 b0 = true) (b1 b2 : Byte) (p : List Byte) :
    utf8 (b0 :: b1 :: b2 :: p) = (utf8Char [b0, b1, b2] && utf8 p) := by
  rw [utf8.eq_def]
  simp [utf8Char, h, byteIn_eq_false_of_below (lo := 0x00#8) (hi := 0x7F#8) h (by decide),
    byteIn_eq_false_of_below (lo := 0xC2#8) (hi := 0xDF#8) h (by decide)]

theorem utf8_of_lead_four {b0 : Byte} (h : byteIn 0xF0#8 0xF4#8 b0 = true) (b1 b2 b3 : Byte) (p : List Byte) :
    utf8 (b0 :: b1 :: b2 :: b3 :: p) = (utf8Char [b0, b1, b2, b3] && utf8 p) := by
  rw [utf8.eq_def]
  simp [utf8Char, h, byteIn_eq_false_of_below (lo := 0x00#8) (hi := 0x7F#8) h (by decide),
    byteIn_eq_false_of_below (lo := 0xC2#8) (hi := 0xDF#8) h (by decide),
    byteIn_eq_false_of_below (lo := 0xE0#8) (hi := 0xEF#8) h (by decide)]

/-- A character at the head is read off and the rest is checked. -/
theorem utf8_append {q : List Byte} (h : utf8Char q = true) (p : List Byte) : utf8 (q ++ p) = utf8 p := by
  have hread {b : Bool} (hb : b = (utf8Char q && utf8 p)) : b = utf8 p := by rw [hb, h, Bool.true_and]
  match q with
  | [b0] => exact hread (utf8_of_lead_one h p)
  | [b0, b1] =>
    obtain ⟨hlead, -⟩ := (Bool.and_eq_true _ _).mp h
    exact hread (utf8_of_lead_two hlead b1 p)
  | [b0, b1, b2] =>
    simp only [utf8Char, Bool.and_eq_true] at h
    obtain ⟨⟨hlead, -⟩, -⟩ := h
    exact hread (utf8_of_lead_three hlead b1 b2 p)
  | [b0, b1, b2, b3] =>
    simp only [utf8Char, Bool.and_eq_true] at h
    obtain ⟨⟨⟨hlead, -⟩, -⟩, -⟩ := h
    exact hread (utf8_of_lead_four hlead b1 b2 b3 p)

/-- A check that reads one character and then a text accepts a text. -/
theorem exists_text_append {q p : List Byte} (h : (utf8Char q && utf8 p) = true)
    (ih : utf8 p = true → ∃ cs, p = textBytes cs) : ∃ cs, q ++ p = textBytes cs := by
  obtain ⟨hq, hp⟩ := Bool.and_eq_true_iff.mp h
  obtain ⟨c, rfl⟩ := exists_char_of_utf8Char hq
  obtain ⟨cs, rfl⟩ := ih hp
  exact ⟨c :: cs, textBytes_cons c cs⟩

theorem exists_text_of_utf8 (p : List Byte) (h : utf8 p = true) : ∃ cs, p = textBytes cs := by
  induction p using utf8.induct with
  | case1 => exact ⟨[], rfl⟩
  | case2 b0 p hlead ih => exact exists_text_append (q := [b0]) (by rwa [← utf8_of_lead_one hlead]) ih
  | case4 b0 _ b1 p hlead ih => exact exists_text_append (q := [b0, b1]) (by rwa [← utf8_of_lead_two hlead]) ih
  | case6 b0 _ b1 _ b2 p hlead ih =>
    exact exists_text_append (q := [b0, b1, b2]) (by rwa [← utf8_of_lead_three hlead]) ih
  | case8 b0 _ b1 _ b2 _ b3 p hlead ih =>
    exact exists_text_append (q := [b0, b1, b2, b3]) (by rwa [← utf8_of_lead_four hlead]) ih
  | case3 | case5 | case7 | case9 => simp_all [utf8]

/-- Settles O13: both directions go one character at a time. -/
theorem textCheckIsUtf8 : Obligations.TextCheckIsUtf8 := by
  refine fun p => ⟨exists_text_of_utf8 p, ?_⟩
  rintro ⟨cs, rfl⟩
  induction cs with
  | nil => rfl
  | cons c cs ih => rw [textBytes_cons, utf8_append (utf8Char_charBytes c), ih]

end Sys2Proof.Text
end

section
/-! SUPPORT. The Unspecified situations (R247) as one update each, and a byte's arrival (R257). The obligations
UnspecifiedCodesAreSet and ByteArrives. -/

namespace Sys2Proof.Unspecified

open Sys2Proof.Machine Sys2Proof.Laws

variable {s : State} {p : List Byte}

/-- A command that is Unspecified before any other effect leaves the marker only (R202, R210). -/
theorem dispatchStep_unspecified (u : UCode) (hat : rxAtDispatch s = true) :
    dispatchStep s (s, .unspecified u) = .next { s with ufault := some u } := by
  rw [Dispatch.dispatchStep_taken hat]
  exact congrArg _ (raiseUnspecified_eq u (Dispatch.ufault_of_rxAtDispatch hat))

theorem timeSyncActions_of_length_ne (h : p.length ≠ 8) : timeSyncActions p s = (s, .unspecified .syncLen) := if_pos h

theorem logActions_of_not_utf8 (l : LogLevel) (h : utf8 p = false) : logActions l p s = (s, .unspecified .text) :=
  if_neg (Bool.eq_false_iff.mp h)

theorem paramActions_of_not_utf8 (h : utf8 p = false) : paramActions p s = (s, .unspecified .text) :=
  if_neg (Bool.eq_false_iff.mp h)

/-- Settles O26: a bad payload is found before any other effect of its command; the codes HOST can raise are `start`'s and
`step`'s results. -/
theorem unspecifiedCodesAreSet : Obligations.UnspecifiedCodesAreSet := by
  refine ⟨fun s p hat hlen => ?_, fun s p hat htext => ?_, fun s hu hp hmisuse => ?_, fun s hu hp hs hn hr => ?_,
    fun s hu hp hm => ?_⟩
  · have hexec : exec (.timeSync p) s = dispatchStep s (timeSyncActions p s) := rfl
    rw [hexec, timeSyncActions_of_length_ne hlen, dispatchStep_unspecified _ hat]
  · have hlog (l : LogLevel) : dispatchStep s (logActions l p s) = .next { s with ufault := some .text } := by
      rw [logActions_of_not_utf8 l htext, dispatchStep_unspecified _ hat]
    have hparam : dispatchStep s (paramActions p s) = .next { s with ufault := some .text } := by
      rw [paramActions_of_not_utf8 htext, dispatchStep_unspecified _ hat]
    exact ⟨hlog .debug, hlog .info, hlog .warn, hlog .error, hparam⟩
  · obtain ⟨-, -, hstart⟩ := HostCalls.startResult s hu hp
    exact hstart hmisuse
  · obtain ⟨-, hreset, -⟩ := HostCalls.startResult s hu hp
    exact hreset hs hn hr
  · obtain ⟨-, -, hmode⟩ := HostCalls.singleStepCallResult s hu hp
    exact hmode hm

/-- Settles O42: the arrival does not go through `whenEnabled`, so no register decides whether it is taken. -/
theorem byteArrives : Obligations.ByteArrives := fun _ _ => rfl

end Sys2Proof.Unspecified
end

section
/-! SUPPORT. What a frame can reach (R235, R253), as a preorder on states that every part of a dispatch respects. The obligation
FramesReachOnlyTheirEffects. -/

namespace Sys2Proof.Reach

open Sys2Proof.Machine Sys2Proof.Laws

variable {c : Option Class} {s t r : State}

/-- What `P` holds of before a step and of its result holds after the step, taken or not (log 8). -/
theorem next_of_whenEnabled {P : State → Prop} {b : Bool} (h : whenEnabled b s r = .next t) (hs : P s) (hr : P r) : P t := by
  obtain ⟨-, ⟨-, rfl⟩ | ⟨-, rfl⟩⟩ := whenEnabled_cases h
  · exact hr
  · exact hs

/-- The registers that no frame writes, whatever its command. -/
def outOfReach (s : State) :=
  (s.cfg, s.started, s.readCount, Wire.txRegs s, s.rxFifo, s.rxCmd, s.rxLen, s.rxIdx, s.rxBuf, s.hostStatus, s.schedule,
    s.moved)

/-- From `s` a frame of class `c` can reach `t`. -/
def FrameReach (c : Option Class) (s t : State) : Prop :=
  outOfReach t = outOfReach s ∧ (t.alive = true → s.alive = true) ∧
  (c ≠ some .timeSync → t.queue = s.queue ∧ t.timeSynced = s.timeSynced) ∧
  (c ≠ some .paramReq → t.paramIssued = s.paramIssued)

theorem FrameReach.refl (s : State) : FrameReach c s s := ⟨rfl, id, fun _ => ⟨rfl, rfl⟩, fun _ => rfl⟩

theorem FrameReach.trans (h : FrameReach c s t) (k : FrameReach c t r) : FrameReach c s r := by
  obtain ⟨houtside, halive, hsync, hissued⟩ := h
  obtain ⟨koutside, kalive, ksync, kissued⟩ := k
  refine ⟨koutside.trans houtside, halive ∘ kalive, fun hc => ?_, fun hc => (kissued hc).trans (hissued hc)⟩
  obtain ⟨hqueue, hsynced⟩ := hsync hc
  obtain ⟨kqueue, ksynced⟩ := ksync hc
  exact ⟨kqueue.trans hqueue, ksynced.trans hsynced⟩

/-! ### What every command may do -/

theorem reach_emit (e : Event) (s : State) : FrameReach c s (emit e s) := .refl s

theorem reach_endAttempt (s : State) : FrameReach c s (endAttempt s) := by
  rw [endAttempt_eq]; exact .refl s

theorem reach_useCall (s : State) : FrameReach c s (useCall s) := by
  rw [useCall_eq]; exact .refl s

theorem reach_useSysTime (s : State) : FrameReach c s (useSysTime s) := by
  rw [useSysTime_eq]; exact .refl s

theorem reach_raiseUnspecified (u : UCode) (s : State) : FrameReach c s (raiseUnspecified u s) := by
  unfold raiseUnspecified
  split <;> exact .refl s

/-- A failed call can stop the block, never start it (R162, R180). -/
theorem reach_haltRx (s : State) : FrameReach c s (haltRx s) := by
  rw [haltRx_eq]
  exact ⟨rfl, nofun, fun _ => ⟨rfl, rfl⟩, fun _ => rfl⟩

theorem reach_takeRxException (x : RxException) (s : State) : FrameReach c s (takeRxException x s) := by
  unfold takeRxException
  split
  · obtain hx | ⟨d, hx⟩ := exceptionDiag_cases x s <;> rw [hx]
    · exact reach_haltRx s
    · exact (reach_emit _ s).trans (reach_haltRx _)
  · exact reach_endAttempt s

theorem FrameReach.endDispatch {a : State × Ending} (h : FrameReach c s a.1) : FrameReach c s (endDispatch a) := by
  refine h.trans ?_
  unfold Machine.endDispatch
  split
  · exact reach_endAttempt _
  · exact reach_takeRxException _ _
  · exact reach_raiseUnspecified _ _

theorem reach_callDelegate (e : DelCall) (s : State) : FrameReach c s (callDelegate e s).1 := by
  obtain h | h := callDelegate_cases e s <;> rw [h] <;> exact (reach_emit _ s).trans (reach_useCall _)

/-! ### The commands' actions -/

theorem reach_logActions (l : LogLevel) (p : List Byte) (s : State) : FrameReach c s (logActions l p s).1 := by
  unfold logActions
  split
  · exact reach_callDelegate _ s
  · exact .refl s

/-- Only `PARAM_REQ` counts a request (R220). -/
theorem reach_countParam (s : State) : FrameReach (some .paramReq) s (countParam s) :=
  ⟨rfl, id, fun _ => ⟨rfl, rfl⟩, (absurd rfl ·)⟩

theorem reach_paramActions (p : List Byte) (s : State) : FrameReach (some .paramReq) s (paramActions p s).1 := by
  unfold paramActions
  split
  · exact (reach_countParam s).trans (reach_callDelegate _ _)
  · exact .refl s

/-- Only `TIME_SYNC` enqueues and sets `time_synced` (R204, R205). -/
theorem reach_timeSyncAnswered (p : List Byte) (a : SysTimeAnswer) (s : State) :
    FrameReach (some .timeSync) s (timeSyncAnswered p a s).1 := by
  cases a with
  | time hs hn => exact ⟨rfl, id, (absurd rfl ·), fun _ => rfl⟩
  | error => exact .refl s

theorem reach_timeSyncActions (p : List Byte) (s : State) : FrameReach (some .timeSync) s (timeSyncActions p s).1 := by
  unfold timeSyncActions
  split
  · exact .refl s
  · exact ((reach_emit _ s).trans (reach_useSysTime _)).trans (reach_timeSyncAnswered p _ _)

/-! ### Every frame -/

/-- A frame's instruction is the dispatch step of its command's actions (R137), and those are in its class's reach. -/
theorem exec_frame_actions {i : Instr} (hi : i.isPort = false) (s : State) :
    ∃ a, exec i s = dispatchStep s a ∧ FrameReach i.commandClass s a.1 := by
  cases i with
  | unknown00 | unknown0607 | unknown09 | unknown0A0B | unknown0C0F => exact ⟨_, rfl, reach_emit _ s⟩
  | publish101F | publish203F | publish407F | publish80FF => exact ⟨_, rfl, reach_callDelegate _ s⟩
  | logDebug | logInfo | logWarn | logError => exact ⟨_, rfl, reach_logActions _ _ s⟩
  | paramReq p => exact ⟨_, rfl, reach_paramActions p s⟩
  | timeSync p => exact ⟨_, rfl, reach_timeSyncActions p s⟩
  | _ => cases hi

theorem reach_of_exec_frame {i : Instr} (hi : i.isPort = false) (h : exec i s = .next t) :
    FrameReach i.commandClass s t := by
  obtain ⟨a, hexec, ha⟩ := exec_frame_actions hi s
  rw [hexec] at h
  exact next_of_whenEnabled h (.refl s) ha.endDispatch

/-- Settles O28: every frame's dispatch stays in its class's reach. -/
theorem framesReachOnlyTheirEffects : Obligations.FramesReachOnlyTheirEffects := by
  intro i s t hi h
  obtain ⟨houtside, halive, hsync, hissued⟩ := reach_of_exec_frame hi h
  simp only [outOfReach, Wire.txRegs, Prod.mk.injEq, and_assoc] at houtside
  obtain ⟨hcfg, hstarted, hcount, hstate, hcur, hoff, hwire, hregs⟩ := houtside
  obtain ⟨hfifo, hcmd, hlen, hidx, hbuf, hstatus, hschedule, hmoved⟩ := hregs
  exact ⟨hcfg, hstarted, hcount, hstate, hcur, hoff, hwire, hfifo, hcmd, hlen, hidx, hbuf, hstatus, hschedule, hmoved,
    halive, hsync, hissued⟩

end Sys2Proof.Reach
end

section
/-! SUPPORT. Each loop's registers are its own (R260): what TX's steps leave alone, and that RX's steps leave TX's registers
alone. The obligation LoopRegistersArePrivate. -/

namespace Sys2Proof.Privacy

open Sys2Proof.Machine Sys2Proof.Laws Sys2Proof.Reach

variable {s t r : State}

theorem kept_of_whenEnabled {α : Type} {f : State → α} {b : Bool} (h : whenEnabled b s r = .next t) (hr : f r = f s) :
    f t = f s :=
  next_of_whenEnabled (P := fun t => f t = f s) h rfl hr

/-! ### TX's steps -/

/-- RX's registers, the input stream, and what RX's dispatch and decoder write beside them. -/
def rxSide (s : State) :=
  (s.rxState, s.rxCmd, s.rxLen, s.rxIdx, s.rxBuf, s.rxFifo, s.readCount, s.timeSynced, s.paramIssued)

theorem rxSide_haltTx (s : State) : rxSide (haltTx s) = rxSide s := by
  rw [haltTx_eq]; rfl

theorem rxSide_endWriteCycle (s : State) : rxSide (endWriteCycle s) = rxSide s := by
  rw [endWriteCycle_eq]; rfl

theorem rxSide_txAccepted (s : State) : rxSide (txAccepted s) = rxSide s := by
  unfold txAccepted
  split
  · exact rxSide_endWriteCycle { s with txState := .idle }
  · rfl

/-- By the mode, then by the policy (R174) or the draw (R186). -/
theorem rxSide_txTimedOut (s : State) : rxSide (txTimedOut s) = rxSide s := by
  cases hm : s.cfg.mode with
  | threaded =>
    cases hp : s.cfg.wrTimeoutPolicy with
    | retryRemainder => rw [Writer.txTimedOut_retry hm hp]; rfl
    | dropRemainder =>
      obtain ⟨cur, off, d, hdrop⟩ := Writer.exists_txTimedOut_drop hm hp
      rw [hdrop]; rfl
  | singleStep =>
    cases hd : nextTimeout s with
    | stop => rw [Writer.txTimedOut_stop hm hd]; rfl
    | _ => rw [Writer.txTimedOut_continue hm hd]; rfl

theorem rxSide_txFaulted (s : State) : rxSide (txFaulted s) = rxSide s := by
  cases hm : s.cfg.mode with
  | threaded => rw [Writer.txFaulted_threaded hm, haltTx_eq]; rfl
  | singleStep => rw [Writer.txFaulted_singleStep hm, stopBlock_eq]; rfl

theorem rxSide_txAnswered (a : WriteAnswer) (s : State) : rxSide (txAnswered a s) = rxSide s := by
  cases a with
  | accept k => exact rxSide_txAccepted (txAccept k s)
  | timeout k => exact rxSide_txTimedOut (txAccept k s)
  | fault k => exact rxSide_txFaulted (txAccept k s)

theorem rxSide_txDequeue (s : State) : rxSide (txDequeue s) = rxSide s := by
  unfold txDequeue
  split
  · exact rxSide_endWriteCycle s
  · rfl

theorem rxSide_writerStep (s : State) : rxSide (writerStep s) = rxSide s := by
  unfold writerStep
  split
  · unfold txIdleStep
    split
    · exact rxSide_haltTx s
    · exact rxSide_txDequeue s
  · unfold txPauseStep
    split
    · rfl
    · split
      · exact rxSide_haltTx s
      · rfl
  · rfl
  · rfl

theorem rxSide_of_txMove {m : Move} (hm : m = .tx ∨ m = .txExit ∨ ∃ a, m = .input (.xptWriteAnswer a))
    (h : runMove m s = .next t) : rxSide t = rxSide s := by
  obtain rfl | rfl | ⟨a, rfl⟩ := hm
  · exact kept_of_whenEnabled h (rxSide_writerStep s)
  · exact kept_of_whenEnabled h (rxSide_haltTx s)
  · exact kept_of_whenEnabled h (rxSide_txAnswered a s)

/-! ### RX's steps -/

/-- RX's own step is the dispatch of a frame, out of whose reach TX's registers are, or a step of the decoder. -/
theorem txRegs_of_rxMove (h : rxMove s = .next t) : Wire.txRegs t = Wire.txRegs s := by
  unfold rxMove at h
  split at h
  · obtain ⟨houtside, -⟩ := reach_of_exec_frame (Scope.instrOf_isPort _ _) h
    simp only [outOfReach, Prod.mk.injEq] at houtside
    obtain ⟨-, -, -, htx, -⟩ := houtside
    exact htx
  · exact kept_of_whenEnabled h (Wire.txRegs_readerStep s)

theorem txRegs_of_rxAgentMove {m : Move} (hm : m = .rx ∨ m = .rxExit ∨ m = .input .xptTimeout ∨ m = .input .xptIoerr ∨
    ∃ a, m = .input (.delSystimeAnswer a)) (h : runMove m s = .next t) : Wire.txRegs t = Wire.txRegs s := by
  obtain rfl | rfl | rfl | rfl | ⟨a, rfl⟩ := hm
  · exact txRegs_of_rxMove h
  · exact kept_of_whenEnabled h (Wire.txRegs_haltRx s)
  · exact kept_of_whenEnabled h (Wire.txRegs_takeRxException _ s)
  · exact kept_of_whenEnabled h (Wire.txRegs_takeRxException _ s)
  · have hactions := Wire.txRegs_timeSyncActions (rxPayload s) (offerSysTime a s)
    exact kept_of_whenEnabled h ((Wire.txRegs_endDispatch _).trans hactions)

/-- Settles O29: each direction over the moves of its agent. -/
theorem loopRegistersArePrivate : Obligations.LoopRegistersArePrivate := by
  refine ⟨fun m s t hm h => ?_, fun m s t hm h => ?_⟩
  · simpa only [rxSide, Prod.mk.injEq] using rxSide_of_txMove hm h
  · simpa only [Wire.txRegs, Prod.mk.injEq] using txRegs_of_rxAgentMove hm h

end Sys2Proof.Privacy
end

section
/-! SUPPORT. What construction gives the registers (R270), and the base case of the block's two invariants. The obligations
ConstructionState and ConstructionHasInvariants. -/

namespace Sys2Proof.Construction

open Sys2Proof.Machine

variable (cfg : Params) (fifo : List Byte)

/-- Settles O16: each of these registers holds the value that `State.construct` was written with. -/
theorem constructionState : Obligations.ConstructionState :=
  fun _ _ => ⟨rfl, rfl, rfl, rfl, rfl, rfl, rfl, rfl, rfl, rfl, rfl, rfl, rfl, rfl, rfl⟩

/-! ### The block's invariant, clause by clause -/

/-- The block is not started, and nothing has stopped it (R22 to R24). -/
theorem lifecycleInv_construct : LifecycleInv (State.construct cfg fifo) :=
  ⟨fun _ => ⟨rfl, rfl, rfl⟩, nofun, nofun, nofun, nofun⟩

/-- No `step` call is in progress, in either mode (R35, R184). -/
theorem modeInv_construct : ModeInv (State.construct cfg fifo) :=
  ⟨fun _ => rfl, fun _ => ⟨nofun, nofun, nofun⟩, fun _ _ => rfl, fun _ hphase => absurd rfl hphase⟩

/-- Neither loop is inside a frame, and the buffer lists no byte (log 5). -/
theorem positionInv_construct : PositionInv (State.construct cfg fifo) :=
  ⟨nofun, nofun, nofun, nofun, rfl⟩

theorem blockInv_construct : BlockInv (State.construct cfg fifo) :=
  ⟨lifecycleInv_construct cfg fifo, modeInv_construct cfg fifo, positionInv_construct cfg fifo, nofun, rfl, rfl⟩

/-- The empty wire is no whole frame and no part of one (R71). -/
theorem wireInv_construct : WireInv (State.construct cfg fifo) :=
  fun _ => ⟨[], [], rfl, nofun, nofun, fun _ _ => rfl, 0#8, [], List.nil_prefix⟩

/-- Settles O17: nothing has run, so each clause holds of the initial values. -/
theorem constructionHasInvariants : Obligations.ConstructionHasInvariants :=
  fun cfg fifo => ⟨blockInv_construct cfg fifo, wireInv_construct cfg fifo⟩

end Sys2Proof.Construction
end

section
/-! SUPPORT. Without its high length byte a frame of one repeated byte is one byte short of the frame RX reads, and a further
byte of the same value fills it up (R287). The obligation OneLengthByteNeverSameFrame. -/

namespace Sys2Proof.Loopback

open Sys2Proof.Machine Sys2Proof.Laws Sys2Proof.Encoding Sys2Proof.Codec

/-- Where the missing length byte, the payload bytes and the checksum are all one byte `b`, another `b` makes the block's own
frame the one RX expects: the bytes are the same, read one place later. -/
theorem encodeTx_one_append_eq_rxFrame {n : Nat} {b : Byte} (c : Byte) (hhi : lenHi n = b)
    (hcsum : checksum (List.replicate n b) = b) :
    encodeTx .one c (List.replicate n b) ++ [b] = rxFrame c (List.replicate n b) := by
  have hshift : List.replicate n b ++ [b] = b :: List.replicate n b := by
    rw [← List.replicate_succ', List.replicate_succ]
  simp [encodeTx, rxFrame, hhi, hcsum, hshift]

theorem decode1_encodeTx_one_append {n : Nat} {b : Byte} (c : Byte) (hn : n ≤ maxPayload) (hhi : lenHi n = b)
    (hcsum : checksum (List.replicate n b) = b) :
    decode1 (encodeTx .one c (List.replicate n b) ++ [b]) = (.frame c (List.replicate n b), []) := by
  have hframe := decode1_rxFrame c [] (p := List.replicate n b) (by rwa [List.length_replicate])
  rwa [List.append_nil, ← encodeTx_one_append_eq_rxFrame c hhi hcsum] at hframe

/-- The sum 510 leaves 254 modulo 256, one below 255. -/
theorem checksum_replicate_510 : checksum (List.replicate 510 0x01#8) = 0x01#8 := by
  rw [← BitVec.toNat_inj, checksum_toNat, byteSum_replicate]
  rfl

/-- Refutes O6: 510 is 0x01FE, so 510 payload bytes 0x01 followed by one more byte 0x01 decode as the frame's own command and
payload. -/
theorem not_oneLengthByteNeverSameFrame : ¬ Obligations.OneLengthByteNeverSameFrame := by
  intro hnever
  have hdecode := decode1_encodeTx_one_append (n := 510) (b := 0x01#8) 0x10#8 (by decide) rfl checksum_replicate_510
  exact hnever 0x10#8 (List.replicate 510 0x01#8) [0x01#8] (congrArg Prod.fst hdecode)

end Sys2Proof.Loopback
end

section
/-! SUPPORT. A loop that may not step changes nothing (R160, R170), and in an ended run neither may (R275). The obligation
EndedRunHasNoBlockStep. -/

namespace Sys2Proof.Ended

open Sys2Proof.Machine Sys2Proof.Laws

variable {s : State}

/-! ### A loop that may not step -/

theorem runMove_rx_of_not_mayStep (hu : s.ufault = none) (hmay : rxMayStep s = false) : runMove .rx s = .next s := by
  by_cases hd : s.rxState = .dispatch
  · obtain ⟨a, hexec, -⟩ := Reach.exec_frame_actions (Scope.instrOf_isPort s.rxCmd (rxPayload s)) s
    rw [Refinement.runMove_rx_dispatch hd, hexec]
    exact whenEnabled_notTaken hu (by simp [rxAtDispatch, hmay])
  · rw [runMove, rxMove, if_neg hd]
    exact whenEnabled_notTaken hu hmay

theorem runMove_rxExit_of_not_mayStep (hu : s.ufault = none) (hmay : rxMayStep s = false) : runMove .rxExit s = .next s :=
  whenEnabled_notTaken hu (by simp [rxMayExit, hmay])

theorem exec_xptTimeout_of_not_mayStep (hu : s.ufault = none) (hmay : rxMayStep s = false) :
    exec .xptTimeout s = .next s :=
  whenEnabled_notTaken hu (by simp [hmay])

theorem exec_xptIoerr_of_not_mayStep (hu : s.ufault = none) (hmay : rxMayStep s = false) : exec .xptIoerr s = .next s :=
  whenEnabled_notTaken hu (by simp [hmay])

theorem runMove_tx_of_not_mayStep (hu : s.ufault = none) (hmay : txMayStep s = false) : runMove .tx s = .next s :=
  whenEnabled_notTaken hu hmay

theorem runMove_txExit_of_not_mayStep (hu : s.ufault = none) (hmay : txMayStep s = false) : runMove .txExit s = .next s :=
  whenEnabled_notTaken hu (by simp [txMayExit, hmay])

theorem exec_xptWriteAnswer_of_not_mayStep (a : WriteAnswer) (hu : s.ufault = none) (hmay : txMayStep s = false) :
    exec (.xptWriteAnswer a) s = .next s :=
  whenEnabled_notTaken hu (by simp [txWriting, hmay])

/-! ### Ended runs -/

theorem ended_iff (s : State) :
    s.ended = true ↔ s.ufault = none ∧
      (s.cfg.mode = .threaded ∧ s.rxState = .halt ∧ s.txState = .halt ∨
        s.cfg.mode = .singleStep ∧ s.alive = false ∧ s.ssPhase = .none) := by
  unfold State.ended
  cases s.cfg.mode <;> simp

/-- In THREADED mode both loops are halted; in SINGLE_STEP mode a loop steps only inside a `step` call. -/
theorem not_mayStep_of_ended (h : s.ended = true) : rxMayStep s = false ∧ txMayStep s = false := by
  obtain ⟨-, ⟨-, hrx, htx⟩ | ⟨hm, -, hphase⟩⟩ := (ended_iff s).mp h
  · exact ⟨Loops.rxMayStep_of_halt hrx, Loops.txMayStep_of_halt htx⟩
  · exact ⟨by simp [rxMayStep, hm, hphase], by simp [txMayStep, hm, hphase]⟩

/-- Settles O24: every one of these moves needs its loop to step. -/
theorem endedRunHasNoBlockStep : Obligations.EndedRunHasNoBlockStep := by
  intro s h
  obtain ⟨hu, -⟩ := (ended_iff s).mp h
  obtain ⟨hrx, htx⟩ := not_mayStep_of_ended h
  exact ⟨runMove_rx_of_not_mayStep hu hrx, runMove_rxExit_of_not_mayStep hu hrx, runMove_tx_of_not_mayStep hu htx,
    runMove_txExit_of_not_mayStep hu htx, exec_xptTimeout_of_not_mayStep hu hrx, exec_xptIoerr_of_not_mayStep hu hrx,
    fun a => exec_xptWriteAnswer_of_not_mayStep a hu htx⟩

end Sys2Proof.Ended
end

section
/-! SUPPORT. RX's wait (R138, R161, R163, R288): RX's own moves change nothing, and no move of another agent but an arriving
byte reaches RX's registers. The obligation WaitGoesOnUntilInput. -/

namespace Sys2Proof.Waiting

open Sys2Proof.Machine Sys2Proof.Laws Sys2Proof.Privacy

variable {s t : State}

/-! ### RX's own moves -/

/-- With nothing pending RX has a step only at `R_SYNC1`, where it does not wait (R120, R161). -/
theorem readerStep_of_waiting (hw : rxWaiting s = true) : readerStep s = s := by
  obtain ⟨hf, hsync, -, -⟩ := (rxWaiting_iff s).mp hw
  have hexit : rxExitsAtBoundary s = false := by simp [rxExitsAtBoundary, hsync]
  obtain ⟨hx, -⟩ | ⟨-, -, hr⟩ | ⟨b, rest, -, hb, -⟩ := readerStep_cases s
  · exact nomatch hexit.symm.trans hx
  · rw [hr, readNothing]
    split
    next hst => exact absurd hst hsync
    all_goals rfl
  · exact nomatch hf.symm.trans hb

theorem eq_of_rxMove_of_waiting (hw : rxWaiting s = true) (h : runMove .rx s = .next t) : t = s := by
  obtain ⟨-, -, hd, -⟩ := (rxWaiting_iff s).mp hw
  rw [runMove, rxMove, if_neg hd] at h
  exact kept_of_whenEnabled (f := id) h (readerStep_of_waiting hw)

/-- The optional exit is not for a wait (R163, log 22). -/
theorem eq_of_rxExit_of_waiting (hw : rxWaiting s = true) (h : runMove .rxExit s = .next t) : t = s := by
  obtain ⟨-, ⟨hexit, -⟩ | ⟨-, rfl⟩⟩ := whenEnabled_cases h
  · obtain ⟨-, -, -, -, hawake⟩ := (rxMayExit_iff s).mp hexit
    exact nomatch hawake.symm.trans hw
  · rfl

/-- No `SYSTIME` call is made before the dispatch (R137). -/
theorem eq_of_delSystimeAnswer_of_waiting {a : SysTimeAnswer} (hw : rxWaiting s = true)
    (h : exec (.delSystimeAnswer a) s = .next t) : t = s := by
  obtain ⟨-, ⟨hcalled, -⟩ | ⟨-, rfl⟩⟩ := whenEnabled_cases h
  · obtain ⟨hat, -⟩ := sysTimeCalled_cases hcalled
    obtain ⟨-, hst⟩ := (rxAtDispatch_iff s).mp hat
    obtain ⟨-, -, hd, -⟩ := (rxWaiting_iff s).mp hw
    exact absurd hst hd
  · rfl

/-! ### HOST's operations -/

theorem rxSide_raiseUnspecified (u : UCode) (s : State) : rxSide (raiseUnspecified u s) = rxSide s := by
  unfold raiseUnspecified
  split <;> rfl

theorem rxSide_stopBlock (s : State) : rxSide (stopBlock s) = rxSide s := by
  rw [stopBlock_eq]; rfl

/-- RX waits only in a block that was started, so that `start` is misuse and has no other effect than the marker (R182). -/
theorem rxSide_startActions_of_waiting (hb : BlockInv s) (hw : rxWaiting s = true) :
    rxSide (startActions s) = rxSide s := by
  obtain ⟨⟨hunstarted, -⟩, -⟩ := hb
  obtain ⟨-, hsync, -⟩ := (rxWaiting_iff s).mp hw
  have hstarted : s.started = true := by
    rw [← Bool.not_eq_false]
    exact fun hs => hsync (hunstarted hs).1
  rw [HostCalls.startActions_of_misuse (.inl hstarted)]
  exact rxSide_raiseUnspecified _ s

theorem rxSide_stepActions (s : State) : rxSide (stepActions s) = rxSide s := by
  unfold stepActions
  split
  · exact rxSide_raiseUnspecified _ s
  · split <;> rfl

/-! ### Every move -/

/-- An instruction at a port, when it is none of XPT's inputs to RX, leaves a waiting RX alone. -/
theorem rxSide_of_exec_of_waiting {i : Instr} (hport : i.isPort = true) (hb : BlockInv s) (hw : rxWaiting s = true)
    (h : exec i s = .next t) (htimeout : i ≠ .xptTimeout) (hioerr : i ≠ .xptIoerr) (hbyte : ∀ b, i ≠ .xptByte b) :
    rxSide t = rxSide s := by
  cases i with
  | start => exact kept_of_whenEnabled h (rxSide_startActions_of_waiting hb hw)
  | stop => exact kept_of_whenEnabled h (rxSide_stopBlock s)
  | sendCommand c p => exact kept_of_whenEnabled h rfl
  | step => exact kept_of_whenEnabled h (rxSide_stepActions s)
  | statusRead => cases h; rfl
  | xptByte b => exact absurd rfl (hbyte b)
  | xptTimeout => exact absurd rfl htimeout
  | xptIoerr => exact absurd rfl hioerr
  | xptWriteAnswer a => exact kept_of_whenEnabled h (rxSide_txAnswered a s)
  | delSystimeAnswer a => rw [eq_of_delSystimeAnswer_of_waiting hw h]
  | delParamResult k values => exact kept_of_whenEnabled h rfl
  | _ => cases hport

theorem rxSide_of_runMove_of_waiting {m : Move} (hb : BlockInv s) (hw : rxWaiting s = true) (h : runMove m s = .next t)
    (htimeout : m ≠ .input .xptTimeout) (hioerr : m ≠ .input .xptIoerr) (hbyte : ∀ b, m ≠ .input (.xptByte b)) :
    rxSide t = rxSide s := by
  cases m with
  | rx => rw [eq_of_rxMove_of_waiting hw h]
  | rxExit => rw [eq_of_rxExit_of_waiting hw h]
  | tx => exact rxSide_of_txMove (.inl rfl) h
  | txExit => exact rxSide_of_txMove (.inr (.inl rfl)) h
  | input i =>
    cases hport : i.isPort with
    | true =>
      rw [runMove, inputMove, if_pos hport] at h
      exact rxSide_of_exec_of_waiting hport hb hw h (mt (congrArg _) htimeout) (mt (congrArg _) hioerr)
        fun b => mt (congrArg _) (hbyte b)
    | false =>
      rw [runMove, inputMove, if_neg (by simp [hport])] at h
      cases h
      rfl

/-- Settles O54: an arriving byte is appended to an empty `rx_fifo`, and any other move leaves RX's side as it was. -/
theorem waitGoesOnUntilInput : Obligations.WaitGoesOnUntilInput := by
  intro m s t hb hw h htimeout hioerr
  obtain ⟨hf, -⟩ := (rxWaiting_iff s).mp hw
  by_cases hbyte : ∃ b, m = .input (.xptByte b)
  · obtain ⟨b, rfl⟩ := hbyte
    cases h
    refine ⟨rfl, rfl, rfl, rfl, rfl, fun hno => absurd rfl (hno b), fun b' hb' => ?_⟩
    cases hb'
    exact congrArg (· ++ [b]) hf
  · have hno : ∀ b, m ≠ .input (.xptByte b) := fun b hm => hbyte ⟨b, hm⟩
    have hkept := rxSide_of_runMove_of_waiting hb hw h htimeout hioerr hno
    simp only [rxSide, Prod.mk.injEq] at hkept
    obtain ⟨hst, hcmd, hlen, hidx, hbuf, hfifo, -⟩ := hkept
    exact ⟨hst, hcmd, hlen, hidx, hbuf, fun _ => hfifo.trans hf, fun b hm => absurd hm (hno b)⟩

end Sys2Proof.Waiting
end
